-- ==== Sys2Proof/Word.lean ====
section
/-! DEFINITION. The value types of the block: u8, u16 and byte sequences (00_scope.md R5, R6). -/

namespace Sys2Proof

/-- `u8` (R5). -/
abbrev Byte := BitVec 8

/-- `u16` (R5). -/
abbrev U16 := BitVec 16

/-- A byte sequence: a finite list of u8, offset 0 at the front (R6). -/
abbrev Bytes := List Byte

end Sys2Proof
end

