-- ==== Sys2Proof/Machine/Bytes.lean ====
section
/-! DEFINITION. The named operations on byte sequences (00_scope.md R5 to R7; 20_memory.md R27, R31).
They stand below Decode.lean and State.lean because both use them. -/

namespace Sys2Proof.Machine

/-- `lo8(v) = v[7:0]` (R5). -/
def lo8 (v : U16) : Byte := v.extractLsb' 0 8

/-- `hi8(v) = v[15:8]` (R5). -/
def hi8 (v : U16) : Byte := v.extractLsb' 8 8

/-- `le16(v)`: low byte first (R7, R27). -/
def le16 (v : U16) : Bytes := [lo8 v, hi8 v]

/-- `MemRead(S, a, 1)` (R7). DEDUCED: every rule guards its reads by a length test (R6, R32), so the 0 beyond the end is never seen (log entry 9). -/
def memRead8 (S : Bytes) (a : Nat) : Byte := S.getD a 0#8

/-- `MemRead(S, a, 2) = S[a] | (S[a+1] << 8)` (R7, R27, R47). -/
def memRead16 (S : Bytes) (a : Nat) : U16 :=
  (memRead8 S a).setWidth 16 ||| ((memRead8 S (a + 1)).setWidth 16 <<< 8)

/-- `S[a..b)` (R6). -/
def slice (S : Bytes) (a b : Nat) : Bytes := (S.drop a).take (b - a)

/-- `find(S, b, from)`: the least offset k with from ≤ k < len(S) and S[k] = b (R7). -/
def findFrom (S : Bytes) (b : Byte) (start : Nat) : Option Nat :=
  ((S.drop start).findIdx? (· == b)).map (· + start)

/-- A byte pattern over leading bytes, as (match, mask) pairs (R49, R56): under mask FF the byte equals the match byte, under mask 00 it is not tested.
A sequence shorter than the pattern does not match: the byte a mask names must exist (R32). -/
def matchesPattern : List (Byte × Byte) → Bytes → Bool
  | [], _ => true
  | _ :: _, [] => false
  | (m, k) :: ps, b :: bs => ((b &&& k) == (m &&& k)) && matchesPattern ps bs

end Sys2Proof.Machine
end

