-- ==== Sys2Proof/Syntax.lean ====
section
/-! DEFINITION. The requests of the block as syntax: one constructor for each row of spec/opcode_table.json.
The ten operations have the operands of 10_state.md R16.
The wire-format rows and the micro-step rows are requests of the model only (log entries 5 and 6). -/

namespace Sys2Proof

inductive Instr where
  /-- RESET (R165). -/
  | reset
  /-- CRC16 (R65). `length` is the operand of the source's range form `checksum(bytes, length)` (R71); `none` is the plain form. -/
  | crc16 (data : Bytes) (length : Option Nat)
  /-- BUILD_CMD (R75). -/
  | buildCmd (invSerial : Bytes) (startRegister registerCount : U16)
  /-- BUILD_ENV (R78). -/
  | buildEnv (dlSerial cmdBytes : Bytes)
  /-- BUILD_FRAME (R81). -/
  | buildFrame (protocolVersion : U16) (tcpFc : Byte) (envBytes : Bytes)
  /-- ENCODE_REQ (R84). `reqTcpFc` is the OPEN parameter `REQ_TCP_FC` (R4, D8). -/
  | encodeReq (protocolVersion : U16) (dlSerial invSerial : Bytes) (startRegister registerCount : U16) (reqTcpFc : Byte)
  /-- FEED (R95). -/
  | feed (chunk : Bytes)
  /-- DECODE_HDR (R125). -/
  | decodeHdr (frame : Bytes)
  /-- REGISTER_AT (R128). -/
  | registerAt (frame : Bytes) (index : Nat)
  /-- HANDLE_FRAME (R131). -/
  | handleFrame (frame : Bytes)
  /-- OPSEL_RESERVED: a request with a selector code 0xA to 0xF (R53). -/
  | opselReserved (code : BitVec 4)
  /-- Wire format CMD (R41). -/
  | cmd (bytes : Bytes)
  /-- Wire format ENV (R42). -/
  | env (bytes : Bytes)
  /-- Wire format FRAME_OUT (R43). -/
  | frameOut (bytes : Bytes)
  /-- Wire format FRAME_IN (R49). -/
  | frameIn (bytes : Bytes)
  /-- Wire format REQUEST (R44). -/
  | request (bytes : Bytes)
  /-- Wire format RESPONSE (R45). -/
  | response (bytes : Bytes)
  /-- Micro-step P_WAIT (R101). -/
  | pWait
  /-- Micro-step P_SKIP (R102). -/
  | pSkip
  /-- Micro-step P_DROPALL (R103). -/
  | pDropAll
  /-- Micro-step P_EMIT (R104). -/
  | pEmit
  deriving DecidableEq, Repr

end Sys2Proof
end

