-- ==== Sys2Proof/WellFormed.lean ====
section
/-! DEFINITION. Well-formed requests.
Every operand of the ten operations has its width in its type, and a serial of the wrong length is an error outcome, not ill-formed syntax (R16, R146).
The one check left is that a reserved selector code is one of 0xA to 0xF (R52, R53). -/

namespace Sys2Proof

/-- A code below 0xA names an operation and is not reserved (R52). -/
def Instr.wf : Instr → Bool
  | .reset => true
  | .crc16 _ _ => true
  | .buildCmd _ _ _ => true
  | .buildEnv _ _ => true
  | .buildFrame _ _ _ => true
  | .encodeReq _ _ _ _ _ _ => true
  | .feed _ => true
  | .decodeHdr _ => true
  | .registerAt _ _ => true
  | .handleFrame _ => true
  | .opselReserved code => decide (10 ≤ code.toNat)
  | .cmd _ => true
  | .env _ => true
  | .frameOut _ => true
  | .frameIn _ => true
  | .request _ => true
  | .response _ => true
  | .pWait => true
  | .pSkip => true
  | .pDropAll => true
  | .pEmit => true

end Sys2Proof
end

