-- ==== Sys2Proof/Decode.lean ====
section
/-! DEFINITION. A request as bytes, decoded and encoded.
The spec gives the 4-bit selector OPSEL (30_encoding.md R52) and no encoding for operands, so the operand encoding is the model's own (DESIGN CHOICE, log entry 1).

Layout of a request, byte 0 first:
byte 0 holds OPSEL in bits 3..0, and in bits 7..4 the class of the table's row: 0 operation, 1 wire format, 2 micro-step.
The operands follow in the order of the constructor:
a u8 is one byte; a u16 is two bytes, low byte first (R27);
a byte sequence is each of its bytes behind a flag byte 01, and a flag byte 00 at its end;
a natural number is base-128 groups, lowest first, bit 7 set on all but the last;
an optional natural number is a flag byte 00, or a flag byte 01 and the number.
Bytes after the last operand must be 00 (padding). -/

namespace Sys2Proof

open Machine (le16 memRead16)

/-- Why a byte sequence is no request. -/
inductive Reject where
  /-- The bytes end inside the request. -/
  | truncated
  /-- Byte 0 names no row of the table. -/
  | unassignedSelector (header : Byte)
  /-- A flag byte is neither 00 nor 01. -/
  | badFlag (flag : Byte)
  /-- A natural number has a needless high group. -/
  | longNumber
  /-- Bytes other than 00 follow the last operand. -/
  | trailingBytes
  deriving DecidableEq, Repr

/-- What a reader of one operand gives: the operand and the bytes behind it, or the reason there is none. -/
abbrev Taken (α : Type) := Except Reject (α × Bytes)

/-- Read one operand, then go on with the bytes behind it. -/
def andThen {α β : Type} (t : Taken α) (k : α → Bytes → Except Reject β) : Except Reject β :=
  match t with
  | .ok (a, rest) => k a rest
  | .error e => .error e

def takeByte : Bytes → Taken Byte
  | [] => .error .truncated
  | b :: rest => .ok (b, rest)

def takeU16 : Bytes → Taken U16
  | lo :: hi :: rest => .ok (memRead16 [lo, hi] 0, rest)
  | _ => .error .truncated

def takeSeq : Bytes → Taken Bytes
  | [] => .error .truncated
  | [f] => if f = 0#8 then .ok ([], []) else if f = 1#8 then .error .truncated else .error (.badFlag f)
  | f :: b :: rest =>
    if f = 0#8 then .ok ([], b :: rest)
    else if f = 1#8 then andThen (takeSeq rest) fun bs rest' => .ok (b :: bs, rest')
    else .error (.badFlag f)

def takeNat : Bytes → Taken Nat
  | [] => .error .truncated
  | g :: rest =>
    if g.toNat < 128 then .ok (g.toNat, rest)
    else andThen (takeNat rest) fun high rest' =>
      if high = 0 then .error .longNumber else .ok (g.toNat - 128 + 128 * high, rest')

def takeOptNat : Bytes → Taken (Option Nat)
  | [] => .error .truncated
  | f :: rest =>
    if f = 0#8 then .ok (none, rest)
    else if f = 1#8 then andThen (takeNat rest) fun n rest' => .ok (some n, rest')
    else .error (.badFlag f)

/-- Read a request whose only operand is a byte sequence. -/
def takeSeqInstr (mk : Bytes → Instr) (bs : Bytes) : Taken Instr :=
  andThen (takeSeq bs) fun S rest => .ok (mk S, rest)

def takeCrc16 (bs : Bytes) : Taken Instr :=
  andThen (takeSeq bs) fun data r1 => andThen (takeOptNat r1) fun len r2 => .ok (.crc16 data len, r2)

def takeBuildCmd (bs : Bytes) : Taken Instr :=
  andThen (takeSeq bs) fun inv r1 => andThen (takeU16 r1) fun start r2 => andThen (takeU16 r2) fun count r3 =>
    .ok (.buildCmd inv start count, r3)

def takeBuildEnv (bs : Bytes) : Taken Instr :=
  andThen (takeSeq bs) fun dl r1 => andThen (takeSeq r1) fun cmd r2 => .ok (.buildEnv dl cmd, r2)

def takeBuildFrame (bs : Bytes) : Taken Instr :=
  andThen (takeU16 bs) fun ver r1 => andThen (takeByte r1) fun fc r2 => andThen (takeSeq r2) fun env r3 =>
    .ok (.buildFrame ver fc env, r3)

def takeEncodeReq (bs : Bytes) : Taken Instr :=
  andThen (takeU16 bs) fun ver r1 => andThen (takeSeq r1) fun dl r2 => andThen (takeSeq r2) fun inv r3 =>
    andThen (takeU16 r3) fun start r4 => andThen (takeU16 r4) fun count r5 => andThen (takeByte r5) fun fc r6 =>
      .ok (.encodeReq ver dl inv start count fc, r6)

def takeRegisterAt (bs : Bytes) : Taken Instr :=
  andThen (takeSeq bs) fun frame r1 => andThen (takeNat r1) fun index r2 => .ok (.registerAt frame index, r2)

/-- The operands behind byte 0, by what byte 0 selects: the OPSEL codes of R52, then the model's own codes for the other rows. -/
def takeOperands (header : Byte) (bs : Bytes) : Taken Instr :=
  match header.toNat with
  | 0x00 => .ok (.reset, bs)
  | 0x01 => takeCrc16 bs
  | 0x02 => takeBuildCmd bs
  | 0x03 => takeBuildEnv bs
  | 0x04 => takeBuildFrame bs
  | 0x05 => takeEncodeReq bs
  | 0x06 => takeSeqInstr .feed bs
  | 0x07 => takeSeqInstr .decodeHdr bs
  | 0x08 => takeRegisterAt bs
  | 0x09 => takeSeqInstr .handleFrame bs
  | 0x0A => .ok (.opselReserved 0xA#4, bs)
  | 0x0B => .ok (.opselReserved 0xB#4, bs)
  | 0x0C => .ok (.opselReserved 0xC#4, bs)
  | 0x0D => .ok (.opselReserved 0xD#4, bs)
  | 0x0E => .ok (.opselReserved 0xE#4, bs)
  | 0x0F => .ok (.opselReserved 0xF#4, bs)
  | 0x10 => takeSeqInstr .cmd bs
  | 0x11 => takeSeqInstr .env bs
  | 0x12 => takeSeqInstr .frameOut bs
  | 0x13 => takeSeqInstr .frameIn bs
  | 0x14 => takeSeqInstr .request bs
  | 0x15 => takeSeqInstr .response bs
  | 0x20 => .ok (.pWait, bs)
  | 0x21 => .ok (.pSkip, bs)
  | 0x22 => .ok (.pDropAll, bs)
  | 0x23 => .ok (.pEmit, bs)
  | _ => .error (.unassignedSelector header)

/-- The request at the front of a byte sequence, and the bytes behind it. -/
def takeInstr : Bytes → Taken Instr
  | [] => .error .truncated
  | header :: bs => takeOperands header bs

/-- Decode one whole request: nothing but padding may follow it. -/
def decode (request : Bytes) : Except Reject Instr :=
  andThen (takeInstr request) fun i rest => if rest.all (· == 0#8) then .ok i else .error .trailingBytes

/-! The encoder, from the same layout. -/

def encodeSeq : Bytes → Bytes
  | [] => [0#8]
  | b :: bs => 1#8 :: b :: encodeSeq bs

/-- Base-128 groups of `n`, lowest first; `fuel` bounds their number. -/
def natGroups : Nat → Nat → Bytes
  | 0, n => [BitVec.ofNat 8 n]
  | fuel + 1, n =>
    if n < 128 then [BitVec.ofNat 8 n] else BitVec.ofNat 8 (n % 128 + 128) :: natGroups fuel (n / 128)

def encodeNat (n : Nat) : Bytes := natGroups n n

def encodeOptNat : Option Nat → Bytes
  | none => [0#8]
  | some n => 1#8 :: encodeNat n

/-- Byte 0 of a request. -/
def headerOf : Instr → Byte
  | .reset => 0x00#8
  | .crc16 _ _ => 0x01#8
  | .buildCmd _ _ _ => 0x02#8
  | .buildEnv _ _ => 0x03#8
  | .buildFrame _ _ _ => 0x04#8
  | .encodeReq _ _ _ _ _ _ => 0x05#8
  | .feed _ => 0x06#8
  | .decodeHdr _ => 0x07#8
  | .registerAt _ _ => 0x08#8
  | .handleFrame _ => 0x09#8
  | .opselReserved code => code.setWidth 8
  | .cmd _ => 0x10#8
  | .env _ => 0x11#8
  | .frameOut _ => 0x12#8
  | .frameIn _ => 0x13#8
  | .request _ => 0x14#8
  | .response _ => 0x15#8
  | .pWait => 0x20#8
  | .pSkip => 0x21#8
  | .pDropAll => 0x22#8
  | .pEmit => 0x23#8

/-- The operand bytes of a request. -/
def encodeOperands : Instr → Bytes
  | .reset => []
  | .crc16 data len => encodeSeq data ++ encodeOptNat len
  | .buildCmd inv start count => encodeSeq inv ++ (le16 start ++ le16 count)
  | .buildEnv dl cmd => encodeSeq dl ++ encodeSeq cmd
  | .buildFrame ver fc env => le16 ver ++ ([fc] ++ encodeSeq env)
  | .encodeReq ver dl inv start count fc =>
    le16 ver ++ (encodeSeq dl ++ (encodeSeq inv ++ (le16 start ++ (le16 count ++ [fc]))))
  | .feed chunk => encodeSeq chunk
  | .decodeHdr frame => encodeSeq frame
  | .registerAt frame index => encodeSeq frame ++ encodeNat index
  | .handleFrame frame => encodeSeq frame
  | .opselReserved _ => []
  | .cmd S => encodeSeq S
  | .env S => encodeSeq S
  | .frameOut S => encodeSeq S
  | .frameIn S => encodeSeq S
  | .request S => encodeSeq S
  | .response S => encodeSeq S
  | .pWait => []
  | .pSkip => []
  | .pDropAll => []
  | .pEmit => []

/-- The request as bytes, without padding. -/
def encode (i : Instr) : Bytes := headerOf i :: encodeOperands i

/-! The table's numbering of bits: byte k of a request is bits 8k+7..8k. -/

/-- Zero bytes set behind a table word: at least as many as the operands of any row need when all are empty or zero. -/
def padLen : Nat := 16

/-- A table word as the bytes of a request. -/
def tableWordBytes (nbits w : Nat) : Bytes :=
  (List.range ((nbits + 7) / 8)).map (fun k => BitVec.ofNat 8 (w >>> (8 * k))) ++ List.replicate padLen 0#8

/-- The request the decoder reads from a word numbered as spec/opcode_table.json numbers it. -/
def decodeTableWord (nbits w : Nat) : Option Instr :=
  match decode (tableWordBytes nbits w) with
  | .ok i => some i
  | .error _ => none

end Sys2Proof
end

