-- ==== Sys2Proof/Config.lean ====
section
/-! DEFINITION. The fixed parameters of 00_scope.md R4. All are hardwired (10_state.md R13): no operation reads or writes them as state.
The one OPEN parameter, `REQ_TCP_FC`, is an operand of ENCODE_REQ (92_eei_decisions.md D8), so it does not stand here. -/

namespace Sys2Proof.Config

/-- `SERIAL_LEN`. -/
abbrev serialLen : Nat := 10
/-- `MAGIC`, byte 0 (a byte string, not a number: R28). -/
def magic0 : Byte := 0xA1#8
/-- `MAGIC`, byte 1. -/
def magic1 : Byte := 0x1A#8
/-- `FRAME_TYPE`. -/
def frameType : Byte := 1#8
/-- `CMD_ADDR`. -/
def cmdAddr : Byte := 0#8
/-- `CMD_FC`. -/
def cmdFc : Byte := 4#8
/-- `RESP_TCP_FC`. -/
def respTcpFc : Byte := 194#8
/-- `CRC_INIT`. -/
def crcInit : U16 := 0xFFFF#16
/-- `CRC_POLY`, the reflected polynomial constant. -/
def crcPoly : U16 := 0xA001#16
/-- `CMD_LEN`. -/
abbrev cmdLen : Nat := 18
/-- `ENV_HDR_LEN`: serial and length. -/
abbrev envHdrLen : Nat := 12
/-- `FRM_HDR_LEN`: magic, version, length, type, function code. -/
abbrev frmHdrLen : Nat := 8
/-- `FRM_LEN_BIAS`: total frame length minus declared length. -/
abbrev frmLenBias : Nat := 6
/-- `REG_BASE`: frame header (8), envelope header (12) and command-response header (15) before register 0 (R45, R130). -/
abbrev regBase : Nat := 35
/-- Largest length that `ENV_LEN` can hold (R79). -/
abbrev maxCmdBytes : Nat := 65535
/-- Largest envelope whose length plus 2 fits `FRM_LEN` (R82). -/
abbrev maxEnvBytes : Nat := 65533

end Sys2Proof.Config
end

