-- ==== Sys2Proof/Machine/Outcome.lean ====
section
/-! DEFINITION. What an operation hands to the host: its result on `Ok`, or its error (00_scope.md R8; 10_state.md R16; 60_exceptions.md R146, R147). -/

namespace Sys2Proof.Machine

/-- `which` of an error: the operand at fault (R146, R147). -/
inductive OperandName where
  | invSerial
  | dlSerial
  | cmdBytes
  | envBytes
  deriving DecidableEq, Repr

/-- The error kinds and what each records. -/
inductive OpError where
  /-- A serial operand that is not exactly 10 bytes (R146). -/
  | badSerialLength (which : OperandName) (got : Nat)
  /-- A sequence whose length does not fit its u16 length field (R147). -/
  | lengthOverflow (which : OperandName) (got max : Nat)
  deriving DecidableEq, Repr

/-- The result of DECODE_HDR (R125). -/
structure Header where
  protocolVersion : U16
  tcpFc : Byte
  payload : Bytes
  deriving DecidableEq, Repr

/-- Decoded Metrics: two non-negative integers (R131 to R133). -/
structure Metrics where
  pvFlowWatts : Nat
  consumptionWatts : Nat
  deriving DecidableEq, Repr

/-- The fields of a Command (R41). -/
structure CmdFields where
  targetAddress : Byte
  cmdFc : Byte
  inverterSerial : Bytes
  startRegister : U16
  registerCount : U16
  checksum : U16
  deriving DecidableEq, Repr

/-- The fields of an Envelope (R42). -/
structure EnvFields where
  dataloggerSerial : Bytes
  envLen : U16
  payload : Bytes
  deriving DecidableEq, Repr

/-- The fields of a Frame as the encoder builds it (R43). -/
structure FrameOutFields where
  magicPrefix : Bytes
  protocolVersion : U16
  frmLen : U16
  frameType : Byte
  tcpFc : Byte
  payload : Bytes
  deriving DecidableEq, Repr

/-- The fields of a Frame as the parser knows it (R49). -/
structure FrameInFields where
  magicPrefix : Bytes
  protocolVersion : U16
  frmLen : U16
  rest : Bytes
  deriving DecidableEq, Repr

/-- The fields of a composed request (R44). -/
structure RequestFields where
  frame : FrameOutFields
  envelope : EnvFields
  command : CmdFields
  deriving DecidableEq, Repr

/-- What the block reads of a response frame: byte 7 and the seven named registers (R45). -/
structure ResponseFields where
  tcpFc : Byte
  register7 : U16
  register8 : U16
  register9 : U16
  register16 : U16
  register17 : U16
  register26 : U16
  register27 : U16
  deriving DecidableEq, Repr

/-- The result of an operation that ends in `Ok` (R16). -/
inductive OpResult where
  /-- RESET: no result. -/
  | done
  /-- CRC16. -/
  | crc (value : U16)
  /-- The four encoders. -/
  | bytes (value : Bytes)
  /-- FEED, and each micro-step: the frames emitted, in extraction order. -/
  | frames (value : List Bytes)
  /-- DECODE_HDR. -/
  | header (value : Option Header)
  /-- REGISTER_AT. -/
  | register (value : U16)
  /-- HANDLE_FRAME. -/
  | metrics (value : Option Metrics)
  /-- The wire formats (log entry 5). -/
  | cmdFields (value : Option CmdFields)
  | envFields (value : Option EnvFields)
  | frameOutFields (value : Option FrameOutFields)
  | frameInFields (value : Option FrameInFields)
  | requestFields (value : Option RequestFields)
  | responseFields (value : Option ResponseFields)
  deriving DecidableEq, Repr

/-- The outcome of an operation: exactly one of `Ok(result)` and `Error(kind, info)` (R8). -/
inductive OpOutcome where
  | ok (result : OpResult)
  | error (e : OpError)
  deriving DecidableEq, Repr

end Sys2Proof.Machine
end

