-- ==== Sys2Proof/Machine/State.lean ====
section
/-! DEFINITION. The state of the machine, plain data.
The block's own state is the Parse Buffer and nothing else (10_state.md R10, R18).
`requests` and `outcomes` are the host's side of the interface (R9, R177; log entry 2): no operation's effect depends on them. -/

namespace Sys2Proof.Machine

structure State where
  /-- `PB`, the Parse Buffer (R10). -/
  pb : Bytes
  /-- The host's side: requests not yet taken, oldest first (DESIGN CHOICE, log entry 2). -/
  requests : List Bytes
  /-- The host's side: outcomes handed over so far, oldest first (R177; DESIGN CHOICE, log entry 2). -/
  outcomes : List OpOutcome
  deriving DecidableEq, Repr

/-- Power-on and after RESET: `PB = []` (R20, R166). The host has issued nothing and received nothing (DESIGN CHOICE, log entry 3). -/
def State.reset : State := { pb := [], requests := [], outcomes := [] }

/-- No condition inside the core is fatal (R113, R145), so nothing raises a fault: the type has no constructor (DEDUCED, log entry 8; safe). -/
inductive Fault where
  deriving DecidableEq, Repr

/-- Requests without meaning (R149): a fact about the host's request, not a fault of the block. Each is safe: nothing can be proved of what follows it. -/
inductive Refusal where
  /-- Raised by an arm of `exec` whose instruction has no meaning yet; none is left. Safe. -/
  | notModelled (mnemonic : String)
  /-- Raised by OPSEL_RESERVED: a reserved selector code selects no operation (R53). Safe. -/
  | reservedOpsel (code : BitVec 4)
  /-- Raised by CRC16 in its range form when `length > len(bytes)` (R71). Safe. -/
  | checksumRangeBeyondBytes (length got : Nat)
  /-- Raised by a micro-step that the Parse Buffer does not select (R100; log entry 6). Safe. -/
  | microStepNotSelected
  /-- Raised by the step when the bytes of a request are no request (log entry 1). Safe. -/
  | undecodable (why : Reject)
  deriving DecidableEq, Repr

end Sys2Proof.Machine
end

