-- ==== Sys2Proof/Machine/Ops.lean ====
section
/-! DEFINITION. The named operations on the state: writing the Parse Buffer, ending an operation with a result, raising an error.
Raising is the block's whole "exception entry" (60_exceptions.md R150): the host gets the error, and nothing else changes.
There is no saved context, no handler and so no return (R151). -/

namespace Sys2Proof.Machine

/-- `PB <- S` (R7). -/
def State.setPb (s : State) (S : Bytes) : State := { s with pb := S }

/-- Hand an outcome to the host (R177). -/
def State.report (s : State) (o : OpOutcome) : State := { s with outcomes := s.outcomes ++ [o] }

/-- The host's request queue, replaced. -/
def State.setRequests (s : State) (rs : List Bytes) : State := { s with requests := rs }

/-- `return v`: the operation ends with `Ok(v)` (R7, R8). -/
def finish (r : OpResult) (s : State) : Host.Outcome State Fault Refusal := .next (s.report (.ok r))

/-- `raise <Error>(info)`: the operation ends with that error, no result, `PB` unchanged (R7, R150). -/
def raise (e : OpError) (s : State) : Host.Outcome State Fault Refusal := .next (s.report (.error e))

/-- End an encoder: with its bytes, or by raising its error. -/
def finishBytes (r : Except OpError Bytes) (s : State) : Host.Outcome State Fault Refusal :=
  match r with
  | .ok S => finish (.bytes S) s
  | .error e => raise e s

/-- The error codes (R146, R147; the numbers are the spec's own decision D15). -/
def OpError.code : OpError → Nat
  | .badSerialLength _ _ => 1
  | .lengthOverflow _ _ _ => 2

end Sys2Proof.Machine
end

