-- ==== Sys2Proof/Machine/Operands.lean ====
section
/-! DEFINITION. The checks on operands: the serial's length (60_exceptions.md R146), the length a u16 field must hold (R147), the range form of the checksum (40_checksum.md R71). -/

namespace Sys2Proof.Machine

/-- `BadSerialLength` unless the serial is exactly 10 bytes; its content is never inspected (R146, D21). -/
def checkSerial (which : OperandName) (serial : Bytes) : Except OpError Unit :=
  if serial.length = Config.serialLen then .ok () else .error (.badSerialLength which serial.length)

/-- `LengthOverflow` when the sequence is longer than `max` (R147). -/
def checkLength (which : OperandName) (S : Bytes) (max : Nat) : Except OpError Unit :=
  if S.length ≤ max then .ok () else .error (.lengthOverflow which S.length max)

/-- The bytes a checksum covers: all of `data`, or its first `length` bytes; `none` when they do not exist (R71). -/
def checksumRange (data : Bytes) : Option Nat → Option Bytes
  | none => some data
  | some n => if n ≤ data.length then some (data.take n) else none

end Sys2Proof.Machine
end

