-- ==== Sys2Proof/Machine/Checksum.lean ====
section
/-! DEFINITION. CRC16 (40_checksum.md R65 to R71). -/

namespace Sys2Proof.Machine

/-- One bit round: bit 0 is tested before the shift (R68). -/
def crcRound (acc : U16) : U16 :=
  if acc.getLsbD 0 then (acc >>> 1) ^^^ Config.crcPoly else acc >>> 1

/-- `n` bit rounds. -/
def crcRounds : Nat → U16 → U16
  | 0, acc => acc
  | n + 1, acc => crcRounds n (crcRound acc)

/-- One byte: XOR into the low 8 bits, then exactly 8 rounds (R67). -/
def crcByte (acc : U16) (b : Byte) : U16 := crcRounds 8 (acc ^^^ b.setWidth 16)

/-- The checksum of a byte sequence, offset 0 first (R65, R66, R69). -/
def crc16 (data : Bytes) : U16 := data.foldl crcByte Config.crcInit

/-- CRC16 (R65); the range form is refused when it names bytes that do not exist (R71). -/
def execCrc16 (data : Bytes) (length : Option Nat) (s : State) : Host.Outcome State Fault Refusal :=
  match checksumRange data length with
  | some range => finish (.crc (crc16 range)) s
  | none => .refused (.checksumRangeBeyondBytes (length.getD 0) data.length)

end Sys2Proof.Machine
end

