-- ==== Sys2Proof/Machine/Control.lean ====
section
/-! DEFINITION. RESET (70_reset_and_hazards.md R165) and the reserved selector codes (30_encoding.md R53). -/

namespace Sys2Proof.Machine

/-- RESET: `PB <- []`, no result (R165). It does not touch the host's side (R167). -/
def execReset (s : State) : Host.Outcome State Fault Refusal := finish .done (s.setPb [])

/-- OPSEL_RESERVED: no operation is selected; the request is refused, with no state change and no result (R53). -/
def execOpselReserved (code : BitVec 4) (_s : State) : Host.Outcome State Fault Refusal := .refused (.reservedOpsel code)

end Sys2Proof.Machine
end

