-- ==== Sys2Proof/Machine/Encoders.lean ====
section
/-! DEFINITION. The four encoders (41_encoders.md R75 to R87). All are pure: they read no state. -/

namespace Sys2Proof.Machine

/-- The 16 bytes the command's checksum covers (R41, R75). -/
def cmdBody (invSerial : Bytes) (startRegister registerCount : U16) : Bytes :=
  [Config.cmdAddr, Config.cmdFc] ++ invSerial ++ le16 startRegister ++ le16 registerCount

/-- BUILD_CMD's bytes (R75) or its error (R76). -/
def buildCmd (invSerial : Bytes) (startRegister registerCount : U16) : Except OpError Bytes :=
  match checkSerial .invSerial invSerial with
  | .error e => .error e
  | .ok () =>
    let body := cmdBody invSerial startRegister registerCount
    .ok (body ++ le16 (crc16 body))

/-- BUILD_ENV's bytes (R78) or its error, the serial checked first (R79, R152). -/
def buildEnv (dlSerial cmdBytes : Bytes) : Except OpError Bytes :=
  match checkSerial .dlSerial dlSerial with
  | .error e => .error e
  | .ok () =>
    match checkLength .cmdBytes cmdBytes Config.maxCmdBytes with
    | .error e => .error e
    | .ok () => .ok (dlSerial ++ le16 (BitVec.ofNat 16 cmdBytes.length) ++ cmdBytes)

/-- BUILD_FRAME's bytes (R81) or its error (R82). -/
def buildFrame (protocolVersion : U16) (tcpFc : Byte) (envBytes : Bytes) : Except OpError Bytes :=
  match checkLength .envBytes envBytes Config.maxEnvBytes with
  | .error e => .error e
  | .ok () =>
    .ok ([Config.magic0, Config.magic1] ++ le16 protocolVersion ++ le16 (BitVec.ofNat 16 (envBytes.length + 2))
      ++ [Config.frameType, tcpFc] ++ envBytes)

/-- ENCODE_REQ: command, then envelope, then frame (R84); the first error ends it (R85, R151). -/
def encodeReq (protocolVersion : U16) (dlSerial invSerial : Bytes) (startRegister registerCount : U16) (reqTcpFc : Byte) :
    Except OpError Bytes :=
  match buildCmd invSerial startRegister registerCount with
  | .error e => .error e
  | .ok cmd =>
    match buildEnv dlSerial cmd with
    | .error e => .error e
    | .ok env => buildFrame protocolVersion reqTcpFc env

/-- BUILD_CMD (R75). -/
def execBuildCmd (invSerial : Bytes) (startRegister registerCount : U16) (s : State) : Host.Outcome State Fault Refusal :=
  finishBytes (buildCmd invSerial startRegister registerCount) s

/-- BUILD_ENV (R78). -/
def execBuildEnv (dlSerial cmdBytes : Bytes) (s : State) : Host.Outcome State Fault Refusal :=
  finishBytes (buildEnv dlSerial cmdBytes) s

/-- BUILD_FRAME (R81). -/
def execBuildFrame (protocolVersion : U16) (tcpFc : Byte) (envBytes : Bytes) (s : State) : Host.Outcome State Fault Refusal :=
  finishBytes (buildFrame protocolVersion tcpFc envBytes) s

/-- ENCODE_REQ (R84). -/
def execEncodeReq (protocolVersion : U16) (dlSerial invSerial : Bytes) (startRegister registerCount : U16) (reqTcpFc : Byte)
    (s : State) : Host.Outcome State Fault Refusal :=
  finishBytes (encodeReq protocolVersion dlSerial invSerial startRegister registerCount reqTcpFc) s

end Sys2Proof.Machine
end

