-- ==== Sys2Proof/Machine/Flags.lean ====
section
/-! DEFINITION. The block's only flags: predicates on the Parse Buffer, recomputed and never stored (10_state.md R14, R15; 90_conflicts.md C7). -/

namespace Sys2Proof.Machine

/-- `magic(PB)` (R14). -/
def magic (pb : Bytes) : Bool :=
  decide (2 ≤ pb.length) && (memRead8 pb 0 == Config.magic0) && (memRead8 pb 1 == Config.magic1)

/-- `declared(PB)`, meant for n ≥ 6 (R14). -/
def declared (pb : Bytes) : Nat := (memRead16 pb 4).toNat

/-- `total(PB)`, meant for n ≥ 6 (R14, R48). -/
def total (pb : Bytes) : Nat := declared pb + Config.frmLenBias

/-- The three states of the parser (R14). -/
inductive ParserState where
  | seeking
  | awaitingLength
  | awaitingBody
  deriving DecidableEq, Repr

/-- Which of the three holds (R14). -/
def parserState (pb : Bytes) : ParserState :=
  if magic pb then (if pb.length < 6 then .awaitingLength else .awaitingBody) else .seeking

/-- `quiescent(PB)`: the values at which the parser stops (R15). -/
def quiescent (pb : Bytes) : Bool :=
  decide (pb.length < 2) || (magic pb && decide (pb.length < 6))
    || (magic pb && decide (6 ≤ pb.length) && decide (pb.length < total pb))

end Sys2Proof.Machine
end

