-- ==== Sys2Proof/Machine/Parser.lean ====
section
/-! DEFINITION. The stream frame parser: FEED and its four micro-steps (42_stream_parser.md R95 to R113). -/

namespace Sys2Proof.Machine

/-- The micro-step one evaluation picks, with what it needs: P_SKIP's k and P_EMIT's t. -/
inductive MicroStep where
  | wait
  | skip (k : Nat)
  | dropAll
  | emit (t : Nat)
  deriving DecidableEq, Repr

/-- One evaluation of the three-state machine: the micro-step that `PB` alone picks (R100). -/
def selectMicroStep (pb : Bytes) : MicroStep :=
  match parserState pb with
  | .seeking =>
    if pb.length < 2 then .wait
    else match findFrom pb Config.magic0 1 with
      | some k => .skip k
      | none => .dropAll
  | .awaitingLength => .wait
  | .awaitingBody => if pb.length < total pb then .wait else .emit (total pb)

/-- What a micro-step emits (R101 to R104). -/
def MicroStep.emits (m : MicroStep) (pb : Bytes) : List Bytes :=
  match m with
  | .emit t => [pb.take t]
  | _ => []

/-- What a micro-step leaves in `PB` (R101 to R104). -/
def MicroStep.leaves (m : MicroStep) (pb : Bytes) : Bytes :=
  match m with
  | .wait => pb
  | .skip k => pb.drop k
  | .dropAll => []
  | .emit t => pb.drop t

/-- The loop SEEK (R95, R100): the frames it emits and what it leaves in `PB`.
DEDUCED: every micro-step but P_WAIT shortens `PB` (R105), so fuel of one more than its length is never used up (log entry 7). -/
def seekLoop : Nat → Bytes → List Bytes × Bytes
  | 0, pb => ([], pb)
  | fuel + 1, pb =>
    match selectMicroStep pb with
    | .wait => ([], pb)
    | m =>
      let (frames, pb') := seekLoop fuel (m.leaves pb)
      (m.emits pb ++ frames, pb')

/-- Run the loop to exhaustion. -/
def parse (pb : Bytes) : List Bytes × Bytes := seekLoop (pb.length + 1) pb

/-- FEED: append the chunk once (R96), then the loop (R95). -/
def execFeed (chunk : Bytes) (s : State) : Host.Outcome State Fault Refusal :=
  let (frames, pb') := parse (s.pb ++ chunk)
  finish (.frames frames) (s.setPb pb')

/-- One micro-step on `PB`, the one that was selected (R100). -/
def runMicroStep (m : MicroStep) (s : State) : Host.Outcome State Fault Refusal :=
  finish (.frames (m.emits s.pb)) (s.setPb (m.leaves s.pb))

/-- P_WAIT (R101). DESIGN CHOICE, log entry 6: a micro-step as a request runs where `PB` selects it and is refused elsewhere. -/
def execPWait (s : State) : Host.Outcome State Fault Refusal :=
  match selectMicroStep s.pb with
  | .wait => runMicroStep .wait s
  | _ => .refused .microStepNotSelected

/-- P_SKIP (R102). -/
def execPSkip (s : State) : Host.Outcome State Fault Refusal :=
  match selectMicroStep s.pb with
  | .skip k => runMicroStep (.skip k) s
  | _ => .refused .microStepNotSelected

/-- P_DROPALL (R103). -/
def execPDropAll (s : State) : Host.Outcome State Fault Refusal :=
  match selectMicroStep s.pb with
  | .dropAll => runMicroStep .dropAll s
  | _ => .refused .microStepNotSelected

/-- P_EMIT (R104). -/
def execPEmit (s : State) : Host.Outcome State Fault Refusal :=
  match selectMicroStep s.pb with
  | .emit t => runMicroStep (.emit t) s
  | _ => .refused .microStepNotSelected

end Sys2Proof.Machine
end

