-- ==== Sys2Proof/Machine/Registers.lean ====
section
/-! DEFINITION. The frame dispatcher and register decoder (43_dispatch_decode.md R125 to R137). All three operations are pure. -/

namespace Sys2Proof.Machine

/-- DECODE_HDR's result: nothing is checked but the length 8 (R125, R126). -/
def decodeHeader (frame : Bytes) : Option Header :=
  if frame.length < Config.frmHdrLen then none
  else some { protocolVersion := memRead16 frame 2, tcpFc := memRead8 frame 7, payload := frame.drop Config.frmHdrLen }

/-- REGISTER_AT's value: 0 unless both bytes lie inside the frame (R128, D11). -/
def registerAt (frame : Bytes) (index : Nat) : U16 :=
  if frame.length ≤ 2 * index + (Config.regBase + 1) then 0#16
  else memRead16 frame (2 * index + Config.regBase)

/-- A register as an exact non-negative integer (R129). -/
def reg (frame : Bytes) (index : Nat) : Nat := (registerAt frame index).toNat

/-- `register(7) + register(8) + register(9)`, exact (R132). -/
def pvFlow (frame : Bytes) : Nat := reg frame 7 + reg frame 8 + reg frame 9

/-- `(register(16) - register(17)) + (register(27) - register(26))`, an exact signed integer (R133). -/
def rawConsumption (frame : Bytes) : Int :=
  ((reg frame 16 : Int) - reg frame 17) + ((reg frame 27 : Int) - reg frame 26)

/-- A negative value is clamped to 0 (R133). -/
def clampAtZero (raw : Int) : Nat := if raw < 0 then 0 else raw.toNat

/-- The clamp applies to the final sum only (R133). -/
def consumption (frame : Bytes) : Nat := clampAtZero (rawConsumption frame)

/-- HANDLE_FRAME's result (R131): `None` without a byte 7 (D13) or when it is not 194 (R137). -/
def metricsOf (frame : Bytes) : Option Metrics :=
  if frame.length < Config.frmHdrLen then none
  else if memRead8 frame 7 = Config.respTcpFc then
    some { pvFlowWatts := pvFlow frame, consumptionWatts := consumption frame }
  else none

/-- DECODE_HDR (R125). -/
def execDecodeHdr (frame : Bytes) (s : State) : Host.Outcome State Fault Refusal :=
  finish (.header (decodeHeader frame)) s

/-- REGISTER_AT (R128). -/
def execRegisterAt (frame : Bytes) (index : Nat) (s : State) : Host.Outcome State Fault Refusal :=
  finish (.register (registerAt frame index)) s

/-- HANDLE_FRAME (R131). -/
def execHandleFrame (frame : Bytes) (s : State) : Host.Outcome State Fault Refusal :=
  finish (.metrics (metricsOf frame)) s

end Sys2Proof.Machine
end

