-- ==== Sys2Proof/Machine/Wire.lean ====
section
/-! DEFINITION. The wire formats (30_encoding.md R41 to R45, R49, R56).
DESIGN CHOICE, log entry 5: the spec gives these rows of the table a byte pattern, a length and fields, and no operation.
The model reads each as the question its row answers: has this byte sequence this format, and what are its fields?
Nothing is verified that the row does not fix: no checksum (R50, D6). -/

namespace Sys2Proof.Machine

/-- A byte the pattern fixes. -/
def fixedByte (b : Byte) : Byte × Byte := (b, 0xFF#8)

/-- A byte that is a field or is not tested. -/
def fieldByte : Byte × Byte := (0#8, 0#8)

/-- `n` such bytes. -/
def fieldBytes (n : Nat) : List (Byte × Byte) := List.replicate n fieldByte

/-- Row CMD: `00 04`. -/
def cmdPattern : List (Byte × Byte) := [fixedByte Config.cmdAddr, fixedByte Config.cmdFc]

/-- Row FRAME_IN: `A1 1A` (R49). -/
def frameInPattern : List (Byte × Byte) := [fixedByte Config.magic0, fixedByte Config.magic1]

/-- Row FRAME_OUT: `A1 1A`, version, length, `01`, function code. -/
def frameOutPattern : List (Byte × Byte) := frameInPattern ++ fieldBytes 4 ++ [fixedByte Config.frameType, fieldByte]

/-- Row REQUEST: `A1 1A`, version, `20 00`, `01`, function code and serial, `12 00`, `00 04` (R44). -/
def requestPattern : List (Byte × Byte) :=
  frameInPattern ++ fieldBytes 2 ++ [fixedByte 0x20#8, fixedByte 0x00#8, fixedByte Config.frameType] ++ fieldBytes 11
    ++ [fixedByte 0x12#8, fixedByte 0x00#8] ++ cmdPattern

/-- Row RESPONSE: byte 7 is `C2` (R49). -/
def responsePattern : List (Byte × Byte) := fieldBytes 7 ++ [fixedByte Config.respTcpFc]

/-- The fields of a command that starts at offset `a` (R41). -/
def cmdFieldsAt (S : Bytes) (a : Nat) : CmdFields where
  targetAddress := memRead8 S a
  cmdFc := memRead8 S (a + 1)
  inverterSerial := slice S (a + 2) (a + 12)
  startRegister := memRead16 S (a + 12)
  registerCount := memRead16 S (a + 14)
  checksum := memRead16 S (a + 16)

/-- The fields of an envelope that starts at offset `a` and runs to the end (R42). -/
def envFieldsAt (S : Bytes) (a : Nat) : EnvFields where
  dataloggerSerial := slice S a (a + 10)
  envLen := memRead16 S (a + 10)
  payload := S.drop (a + Config.envHdrLen)

/-- The fields of an encoder's frame (R43). -/
def frameOutFieldsOf (S : Bytes) : FrameOutFields where
  magicPrefix := slice S 0 2
  protocolVersion := memRead16 S 2
  frmLen := memRead16 S 4
  frameType := memRead8 S 6
  tcpFc := memRead8 S 7
  payload := S.drop Config.frmHdrLen

/-- CMD: the pattern and length 18 (R41). -/
def readCmd (S : Bytes) : Option CmdFields :=
  if matchesPattern cmdPattern S && decide (S.length = Config.cmdLen) then some (cmdFieldsAt S 0) else none

/-- ENV: a 12-byte header, and `ENV_LEN` is the payload's length (R42). -/
def readEnv (S : Bytes) : Option EnvFields :=
  if decide (Config.envHdrLen ≤ S.length) && decide (S.length = Config.envHdrLen + (memRead16 S 10).toNat)
  then some (envFieldsAt S 0) else none

/-- FRAME_OUT: the pattern, and the length is `FRM_LEN + 6` (R43). -/
def readFrameOut (S : Bytes) : Option FrameOutFields :=
  if matchesPattern frameOutPattern S && decide (S.length = (memRead16 S 4).toNat + Config.frmLenBias)
  then some (frameOutFieldsOf S) else none

/-- FRAME_IN: the magic, and the length is `FRM_LEN + 6` (R48, R49, R112). -/
def readFrameIn (S : Bytes) : Option FrameInFields :=
  if matchesPattern frameInPattern S && decide (6 ≤ S.length)
    && decide (S.length = (memRead16 S 4).toNat + Config.frmLenBias)
  then some { magicPrefix := slice S 0 2, protocolVersion := memRead16 S 2, frmLen := memRead16 S 4, rest := S.drop 6 }
  else none

/-- REQUEST: the pattern and length 38 (R44). -/
def readRequest (S : Bytes) : Option RequestFields :=
  if matchesPattern requestPattern S && decide (S.length = 38)
  then some { frame := frameOutFieldsOf S, envelope := envFieldsAt S 8, command := cmdFieldsAt S 20 } else none

/-- RESPONSE: byte 7 only; a register with either byte outside reads 0 (R45, R128). -/
def readResponse (S : Bytes) : Option ResponseFields :=
  if matchesPattern responsePattern S then
    some {
      tcpFc := memRead8 S 7
      register7 := registerAt S 7
      register8 := registerAt S 8
      register9 := registerAt S 9
      register16 := registerAt S 16
      register17 := registerAt S 17
      register26 := registerAt S 26
      register27 := registerAt S 27 }
  else none

/-- CMD (R41). -/
def execCmd (S : Bytes) (s : State) : Host.Outcome State Fault Refusal := finish (.cmdFields (readCmd S)) s

/-- ENV (R42). -/
def execEnv (S : Bytes) (s : State) : Host.Outcome State Fault Refusal := finish (.envFields (readEnv S)) s

/-- FRAME_OUT (R43). -/
def execFrameOut (S : Bytes) (s : State) : Host.Outcome State Fault Refusal := finish (.frameOutFields (readFrameOut S)) s

/-- FRAME_IN (R49). -/
def execFrameIn (S : Bytes) (s : State) : Host.Outcome State Fault Refusal := finish (.frameInFields (readFrameIn S)) s

/-- REQUEST (R44). -/
def execRequest (S : Bytes) (s : State) : Host.Outcome State Fault Refusal := finish (.requestFields (readRequest S)) s

/-- RESPONSE (R45). -/
def execResponse (S : Bytes) (s : State) : Host.Outcome State Fault Refusal := finish (.responseFields (readResponse S)) s

end Sys2Proof.Machine
end

