-- ==== Sys2Proof/Machine/Dispatch.lean ====
section
/-! DEFINITION. One arm per request. -/

namespace Sys2Proof.Machine

def exec (i : Instr) (s : State) : Host.Outcome State Fault Refusal :=
  match i with
  | .reset => Sys2Proof.Machine.execReset s
  | .crc16 data length => Sys2Proof.Machine.execCrc16 data length s
  | .buildCmd invSerial startRegister registerCount => Sys2Proof.Machine.execBuildCmd invSerial startRegister registerCount s
  | .buildEnv dlSerial cmdBytes => Sys2Proof.Machine.execBuildEnv dlSerial cmdBytes s
  | .buildFrame protocolVersion tcpFc envBytes => Sys2Proof.Machine.execBuildFrame protocolVersion tcpFc envBytes s
  | .encodeReq ver dl inv start count fc => Sys2Proof.Machine.execEncodeReq ver dl inv start count fc s
  | .feed chunk => Sys2Proof.Machine.execFeed chunk s
  | .decodeHdr frame => Sys2Proof.Machine.execDecodeHdr frame s
  | .registerAt frame index => Sys2Proof.Machine.execRegisterAt frame index s
  | .handleFrame frame => Sys2Proof.Machine.execHandleFrame frame s
  | .opselReserved code => Sys2Proof.Machine.execOpselReserved code s
  | .cmd bytes => Sys2Proof.Machine.execCmd bytes s
  | .env bytes => Sys2Proof.Machine.execEnv bytes s
  | .frameOut bytes => Sys2Proof.Machine.execFrameOut bytes s
  | .frameIn bytes => Sys2Proof.Machine.execFrameIn bytes s
  | .request bytes => Sys2Proof.Machine.execRequest bytes s
  | .response bytes => Sys2Proof.Machine.execResponse bytes s
  | .pWait => Sys2Proof.Machine.execPWait s
  | .pSkip => Sys2Proof.Machine.execPSkip s
  | .pDropAll => Sys2Proof.Machine.execPDropAll s
  | .pEmit => Sys2Proof.Machine.execPEmit s

end Sys2Proof.Machine
end

