-- ==== Sys2Proof/Machine/Step.lean ====
section
/-! DEFINITION. One step: the block takes the host's oldest request and runs it to completion (00_scope.md R9; 20_memory.md R35).
The block has no program counter and fetches nothing (R12, R38): what runs next is the host's choice, held in `requests` (log entries 2 and 3). -/

namespace Sys2Proof.Machine

/-- With no request the block is idle and nothing changes (R157; DESIGN CHOICE, log entry 3).
A request that decodes runs as its instruction, on the state with that request taken; one that does not is refused by name. -/
def step (s : State) : Host.Outcome State Fault Refusal :=
  match s.requests with
  | [] => .next s
  | r :: rest =>
    match decode r with
    | .ok i => exec i (s.setRequests rest)
    | .error why => .refused (.undecodable why)

/-- The state whose oldest request is the table word's (log entry 3). -/
def State.withFetchWord (s : State) (nbits w : Nat) : State :=
  s.setRequests (tableWordBytes nbits w :: s.requests)

end Sys2Proof.Machine
end

