-- ==== Sys2Proof/Safety.lean ====
section
/-! DEFINITION. The terms in which claims about the machine are written.
The byte formulas here are the spec's own, in natural numbers, and do not use the model's helpers, so that a claim does not repeat a definition. -/

namespace Sys2Proof.Safety

open Sys2Proof Sys2Proof.Machine

/-- Bits 7..0 of a number as a byte. -/
def lowByte (n : Nat) : Byte := BitVec.ofNat 8 n

/-- Bits 15..8 of a number as a byte. -/
def highByte (n : Nat) : Byte := BitVec.ofNat 8 (n / 256)

/-- The little-endian number at offset `a` (R27). -/
def leAt (S : Bytes) (a : Nat) : Nat := (S.getD a 0).toNat + 256 * (S.getD (a + 1) 0).toNat

/-- Offset `a` holds the number `n`, low byte first, both bytes inside the sequence (R27). -/
abbrev HoldsAt (S : Bytes) (a n : Nat) : Prop := S[a]? = some (lowByte n) ∧ S[a + 1]? = some (highByte n)

/-- The sequence starts with the magic bytes, in that order (R28). -/
abbrev StartsWithMagic (S : Bytes) : Prop := S[0]? = some 0xA1#8 ∧ S[1]? = some 0x1A#8

/-- One bit round of the checksum on a number: odd numbers are shifted and XORed, even ones shifted (R68). -/
def bitRound (n : Nat) : Nat := if n % 2 = 1 then (n / 2) ^^^ 0xA001 else n / 2

/-- Nothing more can be taken from the buffer (R15). -/
abbrev Quiescent (pb : Bytes) : Prop :=
  pb.length < 2 ∨ (StartsWithMagic pb ∧ pb.length < 6) ∨ (StartsWithMagic pb ∧ pb.length < leAt pb 4 + 6)

/-- What FEED promises of a frame (R112): it starts with the magic bytes and is as long as it declares. -/
abbrev IsFrame (F : Bytes) : Prop := StartsWithMagic F ∧ 6 ≤ F.length ∧ F.length = leAt F 4 + 6

/-- The pair `A1 1A` stands somewhere in the sequence (R109, R110). -/
def HasMagicPair (S : Bytes) : Prop := ∃ k, S[k]? = some 0xA1#8 ∧ S[k + 1]? = some 0x1A#8

/-- The four micro-steps as requests. -/
def microSteps : List Instr := [.pWait, .pSkip, .pDropAll, .pEmit]

/-- The buffer meets the condition of this micro-step (R101 to R104); a request that is no micro-step has none. -/
def Selects (pb : Bytes) : Instr → Prop
  | .pWait => Quiescent pb
  | .pSkip => 2 ≤ pb.length ∧ ¬ StartsWithMagic pb ∧ ∃ k, 1 ≤ k ∧ pb[k]? = some 0xA1#8
  | .pDropAll => 2 ≤ pb.length ∧ ¬ StartsWithMagic pb ∧ ∀ k, 1 ≤ k → pb[k]? ≠ some 0xA1#8
  | .pEmit => StartsWithMagic pb ∧ 6 ≤ pb.length ∧ leAt pb 4 + 6 ≤ pb.length
  | _ => False

/-- What the request format fixes of a byte sequence: 38 bytes, magic, `FRM_LEN` 32, type 1, `ENV_LEN` 18, command address 0 and function code 4 (R44). -/
abbrev IsRequest (S : Bytes) : Prop :=
  S.length = 38 ∧ StartsWithMagic S ∧ leAt S 4 = 32 ∧ S[6]? = some 1#8 ∧ leAt S 18 = 18 ∧ S[20]? = some 0#8 ∧ S[21]? = some 4#8

/-- The requests whose meaning may read or write the Parse Buffer: FEED, RESET, and FEED's parts (R154). -/
def TouchesBuffer (i : Instr) : Prop := i = .reset ∨ (∃ chunk, i = .feed chunk) ∨ i ∈ microSteps

/-- The ten operations of the interface, CRC16 in its plain form (R16). -/
def IsOperation : Instr → Prop
  | .reset => True
  | .crc16 _ len => len = none
  | .buildCmd _ _ _ => True
  | .buildEnv _ _ => True
  | .buildFrame _ _ _ => True
  | .encodeReq _ _ _ _ _ _ => True
  | .feed _ => True
  | .decodeHdr _ => True
  | .registerAt _ _ => True
  | .handleFrame _ => True
  | _ => False

/-- Several requests, one after the other, each to completion (R35). -/
def execAll : List Instr → State → Host.Outcome State Fault Refusal
  | [], s => .next s
  | i :: is, s =>
    match exec i s with
    | .next t => execAll is t
    | .fault r => .fault r
    | .refused r => .refused r

/-- The frames that outcomes hand over, in order. -/
def framesIn : List OpOutcome → List Bytes
  | [] => []
  | .ok (.frames fs) :: os => fs ++ framesIn os
  | _ :: os => framesIn os

/-- The frames handed over between two states. -/
def newFrames (s t : State) : List Bytes := framesIn (t.outcomes.drop s.outcomes.length)

/-- Feed chunks in order. -/
def feedAll (chunks : List Bytes) : List Instr := chunks.map .feed

/-- Gaps and frames woven in turn: gap, frame, gap, frame, … -/
def weave : List Bytes → List Bytes → Bytes
  | g :: gs, f :: fs => g ++ f ++ weave gs fs
  | _, _ => []

end Sys2Proof.Safety
end

