-- ==== Sys2Proof/Certificates/Slice0/Obligations.lean ====
section
/-! DEFINITION. The statements for the provers.
Each docstring names the rule of spec/ it formalises.
Where the spec marks a point as its own decision (D<n>), inference or general knowledge, or where the model chose (a log entry), the docstring says so. -/

open Sys2Proof Sys2Proof.Machine Sys2Proof.Safety

/-! ### Requests, decoding, the step -/

/-- A few words written out: the ten OPSEL codes with zero operands, a reserved code, a FEED of two bytes, a wire row and a micro-step.
The codes are the spec's decision D2 (R52); the operand bytes and the codes of the other rows are the model's choice (log entry 1). -/
def Obligations.WrittenOutWordsDecode : Prop :=
  decodeTableWord 8 0x0 = some .reset ∧ decodeTableWord 8 0x1 = some (.crc16 [] none) ∧
  decodeTableWord 8 0x2 = some (.buildCmd [] 0 0) ∧ decodeTableWord 8 0x3 = some (.buildEnv [] []) ∧
  decodeTableWord 8 0x4 = some (.buildFrame 0 0 []) ∧ decodeTableWord 8 0x5 = some (.encodeReq 0 [] [] 0 0 0) ∧
  decodeTableWord 8 0x6 = some (.feed []) ∧ decodeTableWord 8 0x7 = some (.decodeHdr []) ∧
  decodeTableWord 8 0x8 = some (.registerAt [] 0) ∧ decodeTableWord 8 0x9 = some (.handleFrame []) ∧
  decodeTableWord 8 0xA = some (.opselReserved 0xA) ∧
  decode [0x06, 0x01, 0xA1, 0x01, 0x1A, 0x00] = .ok (.feed [0xA1, 0x1A]) ∧
  decode [0x13, 0x00] = .ok (.frameIn []) ∧ decode [0x21] = .ok .pSkip

/-- Every well-formed request survives its encoding, whatever padding follows (the encoding is the model's choice, log entry 1). -/
def Obligations.DecodeInvertsEncode : Prop :=
  ∀ (i : Instr) (n : Nat), i.wf = true → decode (encode i ++ List.replicate n 0) = .ok i

/-- Every byte sequence that decodes is the encoding of a well-formed request, with padding: no second spelling (log entry 1). -/
def Obligations.OnlyEncodingsDecode : Prop :=
  ∀ (r : Bytes) (i : Instr), decode r = .ok i → i.wf = true ∧ ∃ n, r = encode i ++ List.replicate n 0

/-- A step runs the oldest request as the instruction it decodes to, on the state with that request taken; it idles without a request and refuses one that does not decode (log entries 1, 2, 3). -/
def Obligations.StepRunsTheDecodedRequest : Prop :=
  ∀ (s : State) (r : Bytes) (rest : List Bytes),
    (∀ i, s.requests = r :: rest → decode r = .ok i → step s = exec i { s with requests := rest }) ∧
    (∀ why, s.requests = r :: rest → decode r = .error why → step s = .refused (.undecodable why)) ∧
    (s.requests = [] → step s = .next s)

/-- A table word put where the step takes its next request is what the very next step runs (log entry 3). -/
def Obligations.FetchedWordRunsNext : Prop :=
  ∀ (s : State) (nbits w : Nat) (i : Instr), decodeTableWord nbits w = some i →
    step (s.withFetchWord nbits w) = exec i s

/-- A sequence of requests gives what its operations give one after the other, in the order issued (R35; the queue and its encoding are the model's choice, log entries 1 and 2). -/
def Obligations.RequestsRunInTheOrderIssued : Prop :=
  ∀ (is : List Instr) (s : State), (∀ i ∈ is, i.wf = true) →
    Host.Core.run core is.length { s with requests := is.map encode } = execAll is { s with requests := [] }

/-! ### The whole machine -/

/-- R8: each of the ten operations ends, from every state, in exactly one outcome, `Ok` or `Error`; outcome and new buffer are a function of the operands and of `PB`. -/
def Obligations.OperationsEndInOneOutcome : Prop :=
  ∀ (i : Instr) (S : Bytes), IsOperation i →
    ∃ (o : OpOutcome) (pb : Bytes), ∀ s : State, s.pb = S →
      exec i s = .next { s with pb := pb, outcomes := s.outcomes ++ [o] }

/-- What stops: only a reserved code, a checksum range beyond its bytes, and a micro-step whose condition the buffer does not meet (R149; spec's decisions D2, D17; log entries 4 and 6). -/
def Obligations.OnlyMeaninglessRequestsAreRefused : Prop :=
  ∀ (i : Instr) (s : State),
    (∃ t, exec i s = .next t) ∨
    (∃ code, i = .opselReserved code ∧ exec i s = .refused (.reservedOpsel code)) ∨
    (∃ data n, i = .crc16 data (some n) ∧ data.length < n ∧ exec i s = .refused (.checksumRangeBeyondBytes n data.length)) ∨
    (i ∈ microSteps ∧ ¬ Selects s.pb i ∧ exec i s = .refused .microStepNotSelected)

/-- A reserved selector code selects no operation and is refused (R53; the spec's decision D2). -/
def Obligations.ReservedSelectorIsRefused : Prop :=
  ∀ (code : BitVec 4) (s : State), 10 ≤ code.toNat →
    exec (.opselReserved code) s = .refused (.reservedOpsel code) ∧
    (∀ rest, s.requests = [code.setWidth 8] :: rest → step s = .refused (.reservedOpsel code))

/-- The frame of every request: the host's queue is untouched and exactly one outcome is added (R8, R17; log entry 2). -/
def Obligations.EveryRequestAddsExactlyOneOutcome : Prop :=
  ∀ (i : Instr) (s t : State), exec i s = .next t →
    t.requests = s.requests ∧ ∃ o, t.outcomes = s.outcomes ++ [o]

/-- R33: a pure operation has one outcome, fixed by its operands, and changes nothing else; RESET is idempotent.
FEED of any chunk is FEED of nothing with the chunk appended, so that feeding it twice appends it twice, and every non-empty chunk up to 32767 bytes can be seen in the buffer twice.
FEED of nothing is idempotent, and a no-op after any FEED or RESET. -/
def Obligations.PurityAndIdempotency : Prop :=
  (∀ i, IsOperation i → ¬ TouchesBuffer i → ∃ o, ∀ s, exec i s = .next { s with outcomes := s.outcomes ++ [o] }) ∧
  (∀ s t, exec .reset s = .next t → exec .reset t = .next { t with outcomes := t.outcomes ++ [.ok .done] }) ∧
  (∀ (c : Bytes) (s : State), exec (.feed c) s = exec (.feed []) { s with pb := s.pb ++ c }) ∧
  (∀ c : Bytes, c ≠ [] → c.length ≤ 32767 → ∃ s t u : State, exec (.feed c) s = .next t ∧ exec (.feed c) t = .next u ∧
    t.pb = s.pb ++ c ∧ u.pb = s.pb ++ c ++ c) ∧
  (∀ s t, ((∃ c, exec (.feed c) s = .next t) ∨ exec .reset s = .next t) →
    exec (.feed []) t = .next { t with outcomes := t.outcomes ++ [.ok (.frames [])] })

/-- Every other request that does not touch the buffer is fixed by its operands too: one outcome and nothing else, or one refusal.
These are the wire-format requests (log entry 5), the range form of CRC16 and the reserved codes (log entry 4; the spec's decisions D2, D17); only the last two can be refused. -/
def Obligations.RequestsOffTheBufferGiveOneAnswer : Prop :=
  ∀ i, ¬ TouchesBuffer i →
    (∃ o, ∀ s, exec i s = .next { s with outcomes := s.outcomes ++ [o] }) ∨
    (∃ r, (∀ s, exec i s = .refused r) ∧ ((∃ code, i = .opselReserved code) ∨ ∃ data n, i = .crc16 data (some n) ∧ data.length < n))

/-- No hidden state: what a request does is a function of its operands and of the Parse Buffer alone; the host's side is never read (R18, R107; log entry 2). -/
def Obligations.EffectDependsOnTheBufferAlone : Prop :=
  ∀ (i : Instr) (s t : State), s.pb = t.pb →
    (∃ pb o, exec i s = .next { s with pb := pb, outcomes := s.outcomes ++ [o] } ∧
      exec i t = .next { t with pb := pb, outcomes := t.outcomes ++ [o] }) ∨
    (∃ r, exec i s = .refused r ∧ exec i t = .refused r)

/-- Errors leave no trace and come only from the four encoders (R148, R150; the mechanism is the spec's decision D15). -/
def Obligations.ErrorsComeFromEncodersAndChangeNothing : Prop :=
  ∀ (i : Instr) (s t : State) (e : OpError), exec i s = .next t → t.outcomes = s.outcomes ++ [.error e] →
    t = { s with outcomes := s.outcomes ++ [.error e] } ∧
    ((∃ a b c, i = .buildCmd a b c) ∨ (∃ a b, i = .buildEnv a b) ∨ (∃ a b c, i = .buildFrame a b c) ∨
      (∃ a b c d e' f, i = .encodeReq a b c d e' f))

/-! ### RESET -/

/-- Power-on leaves an empty Parse Buffer (R20, R166; the spec's decision D7); nothing requested, nothing reported (log entry 3). -/
def Obligations.PowerOnIsEmpty : Prop :=
  State.reset.pb = [] ∧ State.reset.requests = [] ∧ State.reset.outcomes = []

/-- RESET empties the Parse Buffer and does nothing else (R165, R167; the spec's decision D7). -/
def Obligations.ResetEmptiesTheBuffer : Prop :=
  ∀ s : State, exec .reset s = .next { s with pb := [], outcomes := s.outcomes ++ [.ok .done] }

/-! ### CRC16 -/

/-- R67, R68: each byte, in increasing order, is XORed into the accumulator and followed by exactly 8 bit rounds, within 16 bits; the accumulator starts at 0xFFFF and its last value is the result (R65).
The empty sequence gives 0xFFFF and `[01]` gives 0x807E; no state is read or written and there is no error. -/
def Obligations.Crc16FollowsTheBitRounds : Prop :=
  ∃ acc : Bytes → Nat,
    acc [] = 0xFFFF ∧
    (∀ data b, acc (data ++ [b]) = bitRound^[8] (acc data ^^^ b.toNat)) ∧
    (∀ data, acc data < 65536) ∧ (∀ x, x < 65536 → bitRound x < 65536) ∧
    acc [0x01] = 0x807E ∧
    ∀ (data : Bytes) (s : State),
      exec (.crc16 data none) s = .next { s with outcomes := s.outcomes ++ [.ok (.crc (BitVec.ofNat 16 (acc data)))] }

/-- The range form covers the first `length` bytes (R71); a longer range is refused (the spec's decision D17). -/
def Obligations.Crc16RangeForm : Prop :=
  ∀ (data : Bytes) (n : Nat) (s : State),
    (n ≤ data.length → (∃ t, exec (.crc16 data (some n)) s = .next t) ∧
      exec (.crc16 data (some n)) s = exec (.crc16 (data.take n) none) s) ∧
    (data.length < n → exec (.crc16 data (some n)) s = .refused (.checksumRangeBeyondBytes n data.length))

/-- Residue law: data followed by its own checksum, low byte first, has checksum 0 (R72, which the spec marks as general knowledge). -/
def Obligations.ChecksumOfDataAndChecksumIsZero : Prop :=
  ∀ (data : Bytes) (s : State), ∃ c : U16,
    exec (.crc16 data none) s = .next { s with outcomes := s.outcomes ++ [.ok (.crc c)] } ∧
    exec (.crc16 (data ++ [lowByte c.toNat, highByte c.toNat]) none) s =
      .next { s with outcomes := s.outcomes ++ [.ok (.crc 0)] }

/-! ### The encoders -/

/-- R41, R76: a 10-byte serial gives the 18-byte command, field by field, with the checksum of its first 16 bytes; any other length gives `BadSerialLength` and nothing else. -/
def Obligations.BuildCmdLaysOutTheCommand : Prop :=
  ∀ (inv : Bytes) (start count : U16) (s : State),
    (inv.length = 10 → ∃ (cmd : Bytes) (crc : U16),
      exec (.buildCmd inv start count) s = .next { s with outcomes := s.outcomes ++ [.ok (.bytes cmd)] } ∧
      cmd.length = 18 ∧ cmd[0]? = some 0 ∧ cmd[1]? = some 4 ∧ (cmd.drop 2).take 10 = inv ∧
      HoldsAt cmd 12 start.toNat ∧ HoldsAt cmd 14 count.toNat ∧
      exec (.crc16 (cmd.take 16) none) s = .next { s with outcomes := s.outcomes ++ [.ok (.crc crc)] } ∧
      HoldsAt cmd 16 crc.toNat) ∧
    (inv.length ≠ 10 → exec (.buildCmd inv start count) s =
      .next { s with outcomes := s.outcomes ++ [.error (.badSerialLength .invSerial inv.length)] })

/-- R42: the envelope is the serial, the payload's exact length, and the payload verbatim; for an 18-byte command the length bytes are `12 00`. -/
def Obligations.BuildEnvLaysOutTheEnvelope : Prop :=
  ∀ (dl cmd : Bytes) (s : State), dl.length = 10 → cmd.length ≤ 65535 →
    ∃ env : Bytes,
      exec (.buildEnv dl cmd) s = .next { s with outcomes := s.outcomes ++ [.ok (.bytes env)] } ∧
      env.length = 12 + cmd.length ∧ env.take 10 = dl ∧ HoldsAt env 10 cmd.length ∧ env.drop 12 = cmd ∧
      (cmd.length = 18 → env[10]? = some 0x12 ∧ env[11]? = some 0x00)

/-- BUILD_ENV's errors, the serial first (R79, R152; the spec's decisions D9, D16). -/
def Obligations.BuildEnvChecksSerialThenLength : Prop :=
  ∀ (dl cmd : Bytes) (s : State),
    (dl.length ≠ 10 → exec (.buildEnv dl cmd) s =
      .next { s with outcomes := s.outcomes ++ [.error (.badSerialLength .dlSerial dl.length)] }) ∧
    (dl.length = 10 → 65535 < cmd.length → exec (.buildEnv dl cmd) s =
      .next { s with outcomes := s.outcomes ++ [.error (.lengthOverflow .cmdBytes cmd.length 65535)] })

/-- R43: the frame is magic, version, payload length + 2, frame type 1, function code, payload; its whole length is the declared length + 6. -/
def Obligations.BuildFrameLaysOutTheFrame : Prop :=
  ∀ (ver : U16) (fc : Byte) (payload : Bytes) (s : State), payload.length ≤ 65533 →
    ∃ F : Bytes,
      exec (.buildFrame ver fc payload) s = .next { s with outcomes := s.outcomes ++ [.ok (.bytes F)] } ∧
      StartsWithMagic F ∧ HoldsAt F 2 ver.toNat ∧ HoldsAt F 4 (payload.length + 2) ∧ F[6]? = some 1 ∧
      F[7]? = some fc ∧ F.drop 8 = payload ∧ F.length = 8 + payload.length ∧ F.length = leAt F 4 + 6

/-- An envelope longer than 65533 bytes gives `LengthOverflow` (R82; the spec's decision D10). -/
def Obligations.BuildFrameRefusesLongEnvelopes : Prop :=
  ∀ (ver : U16) (fc : Byte) (env : Bytes) (s : State), 65533 < env.length →
    exec (.buildFrame ver fc env) s =
      .next { s with outcomes := s.outcomes ++ [.error (.lengthOverflow .envBytes env.length 65533)] }

/-- The composed request, offset by offset (R44, which the spec derives; `REQ_TCP_FC` is any byte, decision D8). -/
def Obligations.EncodeReqLaysOutTheRequest : Prop :=
  ∀ (ver : U16) (dl inv : Bytes) (start count : U16) (fc : Byte) (s : State), dl.length = 10 → inv.length = 10 →
    ∃ (R : Bytes) (crc : U16),
      exec (.encodeReq ver dl inv start count fc) s = .next { s with outcomes := s.outcomes ++ [.ok (.bytes R)] } ∧
      R.length = 38 ∧ StartsWithMagic R ∧ HoldsAt R 2 ver.toNat ∧ HoldsAt R 4 32 ∧ R[6]? = some 1 ∧ R[7]? = some fc ∧
      (R.drop 8).take 10 = dl ∧ HoldsAt R 18 18 ∧ R[20]? = some 0 ∧ R[21]? = some 4 ∧ (R.drop 22).take 10 = inv ∧
      HoldsAt R 32 start.toNat ∧ HoldsAt R 34 count.toNat ∧
      exec (.crc16 ((R.drop 20).take 16) none) s = .next { s with outcomes := s.outcomes ++ [.ok (.crc crc)] } ∧
      HoldsAt R 36 crc.toNat

/-- ENCODE_REQ raises only `BadSerialLength`, for the inverter serial first (R85; the spec's decision D16). -/
def Obligations.EncodeReqChecksInverterSerialFirst : Prop :=
  ∀ (ver : U16) (dl inv : Bytes) (start count : U16) (fc : Byte) (s : State),
    (inv.length ≠ 10 → exec (.encodeReq ver dl inv start count fc) s =
      .next { s with outcomes := s.outcomes ++ [.error (.badSerialLength .invSerial inv.length)] }) ∧
    (inv.length = 10 → dl.length ≠ 10 → exec (.encodeReq ver dl inv start count fc) s =
      .next { s with outcomes := s.outcomes ++ [.error (.badSerialLength .dlSerial dl.length)] })

/-! ### FEED and its micro-steps -/

/-- R101: where the appended buffer waits, FEED ends there: nothing is emitted and the bytes stay. -/
def Obligations.WaitingKeepsTheBuffer : Prop :=
  ∀ (s : State) (chunk : Bytes), Quiescent (s.pb ++ chunk) →
    exec (.feed chunk) s = .next { s with pb := s.pb ++ chunk, outcomes := s.outcomes ++ [.ok (.frames [])] }

/-- R102: without the magic, and with `A1` at a least offset k ≥ 1, the first k bytes are discarded, nothing is emitted, and FEED goes on with the rest. -/
def Obligations.SkippingResyncsToTheNextCandidate : Prop :=
  ∀ (s : State) (chunk S : Bytes) (k : Nat), S = s.pb ++ chunk → 2 ≤ S.length → ¬ StartsWithMagic S →
    1 ≤ k → S[k]? = some 0xA1 → (∀ j, 1 ≤ j → j < k → S[j]? ≠ some 0xA1) →
    exec (.feed chunk) s = exec (.feed []) { s with pb := S.drop k }

/-- R103: without the magic and with no `A1` at any offset ≥ 1, the whole buffer goes, even a first byte `A1`; nothing is emitted. -/
def Obligations.DroppingAllEmptiesTheBuffer : Prop :=
  ∀ (s : State) (chunk S : Bytes), S = s.pb ++ chunk → 2 ≤ S.length → ¬ StartsWithMagic S →
    (∀ j, 1 ≤ j → S[j]? ≠ some 0xA1) →
    exec (.feed chunk) s = .next { s with pb := [], outcomes := s.outcomes ++ [.ok (.frames [])] }

/-- With the magic, 6 bytes, and the declared length + 6 bytes in hand, exactly those bytes leave as one frame and FEED goes on with the rest (R104).
That this holds for declared lengths 0 and 1 too is the spec's own inference in R104. -/
def Obligations.EmittingCutsTheDeclaredLength : Prop :=
  ∀ (s : State) (chunk S : Bytes), S = s.pb ++ chunk → StartsWithMagic S → 6 ≤ S.length → leAt S 4 + 6 ≤ S.length →
    ∃ (frames : List Bytes) (pb : Bytes),
      exec (.feed []) { s with pb := S.drop (leAt S 4 + 6) } =
        .next { s with pb := pb, outcomes := s.outcomes ++ [.ok (.frames frames)] } ∧
      exec (.feed chunk) s =
        .next { s with pb := pb, outcomes := s.outcomes ++ [.ok (.frames (S.take (leAt S 4 + 6) :: frames))] }

/-- A micro-step requested where the buffer selects it has the effect of its row, on the buffer and in frames emitted (R101 to R104; that a micro-step can be requested is the model's choice, log entry 6). -/
def Obligations.MicroStepsActWhereSelected : Prop :=
  ∀ s : State,
    (Quiescent s.pb → exec .pWait s = .next { s with outcomes := s.outcomes ++ [.ok (.frames [])] }) ∧
    (∀ k, 2 ≤ s.pb.length → ¬ StartsWithMagic s.pb → 1 ≤ k → s.pb[k]? = some 0xA1 →
      (∀ j, 1 ≤ j → j < k → s.pb[j]? ≠ some 0xA1) →
      exec .pSkip s = .next { s with pb := s.pb.drop k, outcomes := s.outcomes ++ [.ok (.frames [])] }) ∧
    (2 ≤ s.pb.length → ¬ StartsWithMagic s.pb → (∀ j, 1 ≤ j → s.pb[j]? ≠ some 0xA1) →
      exec .pDropAll s = .next { s with pb := [], outcomes := s.outcomes ++ [.ok (.frames [])] }) ∧
    (StartsWithMagic s.pb → 6 ≤ s.pb.length → leAt s.pb 4 + 6 ≤ s.pb.length →
      exec .pEmit s = .next { s with pb := s.pb.drop (leAt s.pb 4 + 6), outcomes := s.outcomes ++ [.ok (.frames [s.pb.take (leAt s.pb 4 + 6)])] })

/-- Exactly one micro-step is selected at every buffer (R100, whose exclusiveness the spec derives; that the others are refused is the model's choice, log entry 6). -/
def Obligations.ExactlyOneMicroStepRuns : Prop :=
  ∀ s : State, ∃ i ∈ microSteps, (∃ t, exec i s = .next t) ∧
    ∀ j ∈ microSteps, j ≠ i → exec j s = .refused .microStepNotSelected

/-- P_SKIP, P_DROPALL and P_EMIT shorten the buffer by at least 1, 2 and 6 bytes (R105, which the spec derives). -/
def Obligations.MicroStepsShortenTheBuffer : Prop :=
  ∀ s t : State,
    (exec .pSkip s = .next t → t.pb.length + 1 ≤ s.pb.length) ∧
    (exec .pDropAll s = .next t → t.pb.length + 2 ≤ s.pb.length) ∧
    (exec .pEmit s = .next t → t.pb.length + 6 ≤ s.pb.length)

/-- FEED is the append and then its micro-steps: at most as many shortening ones as there are bytes, and one P_WAIT (R95, R100, R105, which the spec derives; micro-steps as requests are the model's, log entry 6). -/
def Obligations.FeedIsItsMicroSteps : Prop :=
  ∀ (chunk : Bytes) (s : State), ∃ (steps : List Instr) (t u : State),
    (∀ i ∈ steps, i ∈ ([.pSkip, .pDropAll, .pEmit] : List Instr)) ∧
    steps.length ≤ s.pb.length + chunk.length ∧
    execAll (steps ++ [.pWait]) { s with pb := s.pb ++ chunk } = .next t ∧
    exec (.feed chunk) s = .next u ∧ u.pb = t.pb ∧ newFrames s u = newFrames s t

/-- R113: FEED has no error outcome; from every state, for every chunk, it returns frames.
A waiting buffer has no timeout: only RESET or the arrival of bytes changes it. -/
def Obligations.FeedAlwaysReturnsFrames : Prop :=
  (∀ (chunk : Bytes) (s : State), ∃ (frames : List Bytes) (pb : Bytes),
    exec (.feed chunk) s = .next { s with pb := pb, outcomes := s.outcomes ++ [.ok (.frames frames)] }) ∧
  (∀ (i : Instr) (s t : State), Quiescent s.pb → exec i s = .next t → t.pb ≠ s.pb →
    i = .reset ∨ ∃ chunk, chunk ≠ [] ∧ i = .feed chunk)

/-- Every frame FEED emits starts with the magic, is 6 to 65541 bytes long and as long as it declares (R112, which the spec derives). -/
def Obligations.EmittedFramesAreAsLongAsTheyDeclare : Prop :=
  ∀ (chunk : Bytes) (s t : State) (frames : List Bytes), exec (.feed chunk) s = .next t →
    t.outcomes = s.outcomes ++ [.ok (.frames frames)] → ∀ F ∈ frames, IsFrame F ∧ F.length ≤ 65541

/-- The frames are disjoint slices of the stream in stream order, and the buffer keeps an end of it (R10, R104, R106). -/
def Obligations.FramesAreSlicesInStreamOrder : Prop :=
  ∀ (chunk : Bytes) (s : State), ∃ (gaps frames : List Bytes) (lost pb : Bytes),
    exec (.feed chunk) s = .next { s with pb := pb, outcomes := s.outcomes ++ [.ok (.frames frames)] } ∧
    gaps.length = frames.length ∧ s.pb ++ chunk = weave gaps frames ++ lost ++ pb

/-- After any FEED the buffer is quiescent, at most 65540 bytes long, and a second FEED of nothing changes nothing (R15, R111, which the spec derives). -/
def Obligations.FeedLeavesAQuiescentBuffer : Prop :=
  ∀ (chunk : Bytes) (s t : State), exec (.feed chunk) s = .next t →
    Quiescent t.pb ∧ t.pb.length ≤ 65540 ∧
    (t.pb = [] ∨ t.pb.length = 1 ∨ StartsWithMagic t.pb) ∧
    exec (.feed []) t = .next { t with outcomes := t.outcomes ++ [.ok (.frames [])] }

/-- The invariant: a step from a state whose buffer is quiescent leaves it quiescent, whatever the request (R15, R177). -/
def Obligations.StepKeepsTheBufferQuiescent : Prop :=
  ∀ s t : State, Quiescent s.pb → step s = .next t → Quiescent t.pb

/-- The invariant holds at power-on (R166; the spec's decision D7). -/
def Obligations.PowerOnIsQuiescent : Prop := Quiescent State.reset.pb

/-- Independence from chunking: two ways of cutting one stream give the same frames (R108, which the spec derives).
With at least one FEED each, it holds from every buffer. -/
def Obligations.CuttingTheStreamDoesNotChangeTheFrames : Prop :=
  ∀ (cs ds : List Bytes) (s : State), cs ≠ [] → ds ≠ [] → cs.flatten = ds.flatten →
    ∃ t u, execAll (feedAll cs) s = .next t ∧ execAll (feedAll ds) s = .next u ∧ newFrames s t = newFrames s u

/-- The final buffers of two ways of cutting are equal, or one is empty and the other a single byte that is not `A1` (R108, which the spec derives); and they can differ. -/
def Obligations.CuttingTheStreamLeavesAtMostAStrayByte : Prop :=
  (∀ (cs ds : List Bytes) (s t u : State), cs ≠ [] → ds ≠ [] → cs.flatten = ds.flatten →
    execAll (feedAll cs) s = .next t → execAll (feedAll ds) s = .next u →
    t.pb = u.pb ∨ ∃ b : Byte, b ≠ 0xA1 ∧ ((t.pb = [] ∧ u.pb = [b]) ∨ (t.pb = [b] ∧ u.pb = []))) ∧
  (∃ (cs ds : List Bytes) (t u : State), cs.flatten = ds.flatten ∧ execAll (feedAll cs) State.reset = .next t ∧
    execAll (feedAll ds) State.reset = .next u ∧ t.pb ≠ u.pb)

/-- Resynchronisation: frames the encoder built, behind garbage without the pair `A1 1A`, come out exactly, from an empty buffer, in one chunk or cut anyhow (R106, R108, R110, which the spec derives). -/
def Obligations.EncodedFramesSurviveGarbage : Prop :=
  ∀ (g : Bytes) (E : Bytes) (Es : List Bytes) (s : State), s.pb = [] → ¬ HasMagicPair g →
    (∀ F ∈ E :: Es, ∃ ver fc payload, exec (.buildFrame ver fc payload) s =
      .next { s with outcomes := s.outcomes ++ [.ok (.bytes F)] }) →
    exec (.feed (g ++ (E :: Es).flatten)) s =
      .next { s with outcomes := s.outcomes ++ [.ok (.frames (E :: Es))] } ∧
    ∀ chunks : List Bytes, chunks.flatten = g ++ (E :: Es).flatten →
      ∃ t, execAll (feedAll chunks) s = .next t ∧ newFrames s t = E :: Es

/-- A frame comes out of the FEED that supplies its last byte and never earlier; two frames in one chunk come out in order (R106, which the spec derives). -/
def Obligations.FrameComesWithItsLastByte : Prop :=
  (∀ (F q r : Bytes) (s : State), s.pb = [] → IsFrame F → F = q ++ r → r ≠ [] →
    exec (.feed q) s = .next { s with pb := q, outcomes := s.outcomes ++ [.ok (.frames [])] } ∧
    exec (.feed r) { s with pb := q } = .next { s with outcomes := s.outcomes ++ [.ok (.frames [F])] }) ∧
  (∀ (F G : Bytes) (s : State), s.pb = [] → IsFrame F → IsFrame G →
    exec (.feed (F ++ G)) s = .next { s with outcomes := s.outcomes ++ [.ok (.frames [F, G])] })

/-! ### Dispatcher and register decoder -/

/-- DECODE_HDR tests the length 8 and nothing else (R125, R126; the spec's decision D18). -/
def Obligations.DecodeHdrSplitsTheHeader : Prop :=
  ∀ (F : Bytes) (s : State),
    (F.length < 8 → exec (.decodeHdr F) s = .next { s with outcomes := s.outcomes ++ [.ok (.header none)] }) ∧
    (8 ≤ F.length → exec (.decodeHdr F) s = .next { s with outcomes := s.outcomes ++ [.ok (.header (some
      { protocolVersion := BitVec.ofNat 16 (leAt F 2), tcpFc := F.getD 7 0, payload := F.drop 8 }))] })

/-- Round trip: decoding the header of a built frame gives back version, function code and payload (R127, which the spec derives; decision D18). -/
def Obligations.HeaderRoundTrip : Prop :=
  ∀ (ver : U16) (fc : Byte) (payload : Bytes) (s : State), payload.length ≤ 65533 → ∃ F : Bytes,
    exec (.buildFrame ver fc payload) s = .next { s with outcomes := s.outcomes ++ [.ok (.bytes F)] } ∧
    exec (.decodeHdr F) s = .next { s with outcomes := s.outcomes ++ [.ok (.header (some
      { protocolVersion := ver, tcpFc := fc, payload := payload }))] }

/-- A register is the little-endian pair at `35 + 2*index`, unsigned, and 0 unless both bytes lie inside the frame (R128, R129; both bytes by the spec's decision D11). -/
def Obligations.RegisterAtReadsBothBytesOrZero : Prop :=
  ∀ (F : Bytes) (index : Nat) (s : State),
    (2 * index + 37 ≤ F.length → exec (.registerAt F index) s =
      .next { s with outcomes := s.outcomes ++ [.ok (.register (BitVec.ofNat 16 (leAt F (35 + 2 * index))))] }) ∧
    (F.length < 2 * index + 37 → exec (.registerAt F index) s =
      .next { s with outcomes := s.outcomes ++ [.ok (.register 0)] })

/-- The metrics of a response: registers 7, 8, 9 added; 16 - 17 + 27 - 26 over the integers, clamped below at 0 (R131, R132, R133; exactness is the spec's decision D14).
A frame with no byte 7 gives `None` (decision D13). -/
def Obligations.HandleFrameDerivesTheMetrics : Prop :=
  ∀ (F : Bytes) (s : State) (r : Nat → Nat),
    (∀ i, r i = if 2 * i + 37 ≤ F.length then leAt F (35 + 2 * i) else 0) →
    (F[7]? = some 194 → exec (.handleFrame F) s = .next { s with outcomes := s.outcomes ++ [.ok (.metrics (some
      { pvFlowWatts := r 7 + r 8 + r 9
        consumptionWatts := (max 0 (((r 16 : Int) - r 17) + ((r 27 : Int) - r 26))).toNat }))] }) ∧
    (F.length < 8 → exec (.handleFrame F) s = .next { s with outcomes := s.outcomes ++ [.ok (.metrics none)] })

/-- R137: every function code but 194 gives `None`, and the block does nothing else. -/
def Obligations.OtherFunctionCodesGiveNone : Prop :=
  ∀ (F : Bytes) (fc : Byte) (s : State), F[7]? = some fc → fc ≠ 194 →
    exec (.handleFrame F) s = .next { s with outcomes := s.outcomes ++ [.ok (.metrics none)] }

/-- With byte 7 = 194 there are always metrics, however short the frame; 8 bytes give (0, 0); a frame cut to 90 bytes loses register 27 and keeps the other six; nothing but the length, byte 7 and the bytes from offset 35 on matters (R135, parts of which the spec derives). -/
def Obligations.DecodingIsTolerant : Prop :=
  (∀ (F : Bytes) (s : State), F[7]? = some 194 →
    ∃ m, exec (.handleFrame F) s = .next { s with outcomes := s.outcomes ++ [.ok (.metrics (some m))] } ∧
      (F.length = 8 → m = { pvFlowWatts := 0, consumptionWatts := 0 })) ∧
  (∀ (F : Bytes) (s : State), 91 ≤ F.length →
    exec (.registerAt (F.take 90) 27) s = .next { s with outcomes := s.outcomes ++ [.ok (.register 0)] } ∧
    ∀ i ∈ [7, 8, 9, 16, 17, 26], exec (.registerAt (F.take 90) i) s = exec (.registerAt F i) s) ∧
  (∀ (F G : Bytes) (s : State), F.length = G.length → F[7]? = G[7]? → F.drop 35 = G.drop 35 →
    exec (.handleFrame F) s = exec (.handleFrame G) s)

/-- The metrics stay in their ranges, and the largest values are reached (R132, R133; exactness is the spec's decision D14). -/
def Obligations.MetricsStayInRange : Prop :=
  (∀ (F : Bytes) (s t : State) (m : Metrics), exec (.handleFrame F) s = .next t →
    t.outcomes = s.outcomes ++ [.ok (.metrics (some m))] → m.pvFlowWatts ≤ 196605 ∧ m.consumptionWatts ≤ 131070) ∧
  (∃ F : Bytes, ∀ s : State, exec (.handleFrame F) s =
    .next { s with outcomes := s.outcomes ++ [.ok (.metrics (some { pvFlowWatts := 196605, consumptionWatts := 131070 }))] })

/-! ### The wire formats, read as requests (the model's choice, log entry 5) -/

/-- CMD: 18 bytes starting `00 04` split into their fields (R41 gives the layout; the request is log entry 5). -/
def Obligations.CmdFormatSplits : Prop :=
  ∀ (S : Bytes) (s : State),
    (S.length = 18 → S[0]? = some 0 → S[1]? = some 4 →
      exec (.cmd S) s = .next { s with outcomes := s.outcomes ++ [.ok (.cmdFields (some
        { targetAddress := 0, cmdFc := 4, inverterSerial := (S.drop 2).take 10
          startRegister := BitVec.ofNat 16 (leAt S 12), registerCount := BitVec.ofNat 16 (leAt S 14)
          checksum := BitVec.ofNat 16 (leAt S 16) }))] }) ∧
    ((S.length ≠ 18 ∨ S[0]? ≠ some 0 ∨ S[1]? ≠ some 4) →
      exec (.cmd S) s = .next { s with outcomes := s.outcomes ++ [.ok (.cmdFields none)] })

/-- ENV: a 12-byte header whose length field is the length of what follows (R42 gives the layout; the request is log entry 5). -/
def Obligations.EnvFormatSplits : Prop :=
  ∀ (S : Bytes) (s : State),
    (12 ≤ S.length → S.length = 12 + leAt S 10 →
      exec (.env S) s = .next { s with outcomes := s.outcomes ++ [.ok (.envFields (some
        { dataloggerSerial := S.take 10, envLen := BitVec.ofNat 16 (leAt S 10), payload := S.drop 12 }))] }) ∧
    ((S.length < 12 ∨ S.length ≠ 12 + leAt S 10) →
      exec (.env S) s = .next { s with outcomes := s.outcomes ++ [.ok (.envFields none)] })

/-- FRAME_IN tests the magic and the declared length; FRAME_OUT tests also byte 6 = 1 (R43, R49 give the patterns; the requests are log entry 5). -/
def Obligations.FrameFormatsSplit : Prop :=
  ∀ (S : Bytes) (s : State),
    (IsFrame S → exec (.frameIn S) s = .next { s with outcomes := s.outcomes ++ [.ok (.frameInFields (some
      { magicPrefix := [0xA1, 0x1A], protocolVersion := BitVec.ofNat 16 (leAt S 2)
        frmLen := BitVec.ofNat 16 (leAt S 4), rest := S.drop 6 }))] }) ∧
    (¬ IsFrame S → exec (.frameIn S) s = .next { s with outcomes := s.outcomes ++ [.ok (.frameInFields none)] }) ∧
    (IsFrame S → 8 ≤ S.length → S[6]? = some 1 →
      exec (.frameOut S) s = .next { s with outcomes := s.outcomes ++ [.ok (.frameOutFields (some
        { magicPrefix := [0xA1, 0x1A], protocolVersion := BitVec.ofNat 16 (leAt S 2)
          frmLen := BitVec.ofNat 16 (leAt S 4), frameType := 1, tcpFc := S.getD 7 0, payload := S.drop 8 }))] }) ∧
    ((¬ IsFrame S ∨ S.length < 8 ∨ S[6]? ≠ some 1) →
      exec (.frameOut S) s = .next { s with outcomes := s.outcomes ++ [.ok (.frameOutFields none)] })

/-- REQUEST: what ENCODE_REQ builds is read back, every field of every layer: operands, fixed values, lengths, nested payloads and checksum (R44 gives the layout; the request is log entry 5). -/
def Obligations.RequestReadsBack : Prop :=
  ∀ (ver : U16) (dl inv : Bytes) (start count : U16) (fc : Byte) (s : State), dl.length = 10 → inv.length = 10 →
    ∃ (R : Bytes) (crc : U16),
      exec (.encodeReq ver dl inv start count fc) s = .next { s with outcomes := s.outcomes ++ [.ok (.bytes R)] } ∧
      exec (.crc16 ((R.drop 20).take 16) none) s = .next { s with outcomes := s.outcomes ++ [.ok (.crc crc)] } ∧
      exec (.request R) s = .next { s with outcomes := s.outcomes ++ [.ok (.requestFields (some
        { frame :=
            { magicPrefix := [0xA1, 0x1A], protocolVersion := ver, frmLen := 32, frameType := 1, tcpFc := fc, payload := R.drop 8 }
          envelope := { dataloggerSerial := dl, envLen := 18, payload := R.drop 20 }
          command :=
            { targetAddress := 0, cmdFc := 4, inverterSerial := inv, startRegister := start, registerCount := count
              checksum := crc } }))] }

/-- REQUEST on any sequence: 38 bytes with the row's fixed bytes have all the fields of the three layers, anything else has none (R44, R56 give layout and pattern; the request is log entry 5). -/
def Obligations.RequestFormatTestsItsFixedBytes : Prop :=
  ∀ (S : Bytes) (s : State),
    (IsRequest S → exec (.request S) s = .next { s with outcomes := s.outcomes ++ [.ok (.requestFields (some
      { frame :=
          { magicPrefix := [0xA1, 0x1A], protocolVersion := BitVec.ofNat 16 (leAt S 2), frmLen := 32, frameType := 1
            tcpFc := S.getD 7 0, payload := S.drop 8 }
        envelope := { dataloggerSerial := (S.drop 8).take 10, envLen := 18, payload := S.drop 20 }
        command :=
          { targetAddress := 0, cmdFc := 4, inverterSerial := (S.drop 22).take 10
            startRegister := BitVec.ofNat 16 (leAt S 32), registerCount := BitVec.ofNat 16 (leAt S 34)
            checksum := BitVec.ofNat 16 (leAt S 36) } }))] }) ∧
    (¬ IsRequest S → exec (.request S) s = .next { s with outcomes := s.outcomes ++ [.ok (.requestFields none)] })

/-- RESPONSE tests byte 7 only and reads the seven named registers as REGISTER_AT does (R45, R49; the request is log entry 5). -/
def Obligations.ResponseFormatReadsTheNamedRegisters : Prop :=
  ∀ (S : Bytes) (s : State),
    (S[7]? = some 194 → ∃ f : ResponseFields,
      exec (.response S) s = .next { s with outcomes := s.outcomes ++ [.ok (.responseFields (some f))] } ∧
      f.tcpFc = 194 ∧
      ∀ p ∈ [(7, f.register7), (8, f.register8), (9, f.register9), (16, f.register16), (17, f.register17),
          (26, f.register26), (27, f.register27)],
        exec (.registerAt S p.1) s = .next { s with outcomes := s.outcomes ++ [.ok (.register p.2)] }) ∧
    (S[7]? ≠ some 194 →
      exec (.response S) s = .next { s with outcomes := s.outcomes ++ [.ok (.responseFields none)] })

/-- Every frame FEED emits has format FRAME_IN (R49, R112, which the spec derives; the request is log entry 5). -/
def Obligations.EmittedFramesHaveFormatFrameIn : Prop :=
  ∀ (chunk : Bytes) (s t : State) (frames : List Bytes), exec (.feed chunk) s = .next t →
    t.outcomes = s.outcomes ++ [.ok (.frames frames)] →
    ∀ F ∈ frames, ∃ f, exec (.frameIn F) t = .next { t with outcomes := t.outcomes ++ [.ok (.frameInFields (some f))] }
end

