-- ==== Sys2Proof/Laws/Bytes.lean ====
section
/-! SUPPORT. Laws of the operations on byte sequences: byte order is decided here once. -/

namespace Sys2Proof.Machine

theorem le16_length (v : U16) : (le16 v).length = 2 := rfl

/-- The two bytes of `le16` make the number again (R47). -/
theorem lo8_hi8_join (v : U16) : (lo8 v).setWidth 16 ||| ((hi8 v).setWidth 16 <<< 8) = v := by
  apply BitVec.eq_of_getLsbD_eq
  intro i hi
  simp only [lo8, hi8, BitVec.getLsbD_or, BitVec.getLsbD_setWidth, BitVec.getLsbD_extractLsb', BitVec.getLsbD_shiftLeft]
  by_cases h : i < 8
  · simp [h, hi]
  · have h8 : i - 8 < 8 := by omega
    have : 8 + (i - 8) = i := by omega
    simp [h, hi, h8, this]
    omega

theorem lo8_toNat (v : U16) : (lo8 v).toNat = v.toNat % 256 := by simp [lo8, BitVec.extractLsb'_toNat]

theorem hi8_toNat (v : U16) : (hi8 v).toNat = v.toNat / 256 := by
  have := v.isLt
  simp [hi8, BitVec.extractLsb'_toNat, Nat.shiftRight_eq_div_pow]
  omega

/-- A u16 read is its low byte plus 256 times its high byte (R27). -/
theorem memRead16_toNat (S : Bytes) (a : Nat) :
    (memRead16 S a).toNat = (memRead8 S a).toNat + 256 * (memRead8 S (a + 1)).toNat := by
  have h1 := (memRead8 S a).isLt
  have h2 := (memRead8 S (a + 1)).isLt
  rw [memRead16, BitVec.toNat_or, BitVec.toNat_shiftLeft, BitVec.toNat_setWidth, BitVec.toNat_setWidth,
    Nat.mod_eq_of_lt (by omega), Nat.mod_eq_of_lt (by omega : (memRead8 S (a + 1)).toNat < 2 ^ 16),
    Nat.mod_eq_of_lt (by simp only [Nat.shiftLeft_eq]; omega), Nat.or_comm,
    ← Nat.shiftLeft_add_eq_or_of_lt (by omega), Nat.shiftLeft_eq]
  omega

theorem memRead8_append_left {S T : Bytes} {a : Nat} (h : a < S.length) : memRead8 (S ++ T) a = memRead8 S a := by
  simp [memRead8, List.getElem?_append_left h]

theorem memRead16_append_left {S T : Bytes} {a : Nat} (h : a + 1 < S.length) : memRead16 (S ++ T) a = memRead16 S a := by
  rw [memRead16, memRead16, memRead8_append_left h, memRead8_append_left (by omega)]

theorem memRead8_append_right (S T : Bytes) (a : Nat) : memRead8 (S ++ T) (S.length + a) = memRead8 T a := by
  simp [memRead8, List.getElem?_append_right]

/-- A u16 field behind any leading bytes reads back what was put there (R47). -/
theorem memRead16_le16 (S T : Bytes) (v : U16) : memRead16 (S ++ le16 v ++ T) S.length = v := by
  have h0 : memRead8 (S ++ (le16 v ++ T)) (S.length + 0) = lo8 v := memRead8_append_right ..
  have h1 : memRead8 (S ++ (le16 v ++ T)) (S.length + 1) = hi8 v := memRead8_append_right ..
  rw [memRead16, List.append_assoc, h1]
  simp only [Nat.add_zero] at h0
  rw [h0, lo8_hi8_join]

/-- When a pattern matches (R56): the sequence is long enough and agrees with it under every mask. -/
theorem matchesPattern_iff {ps : List (Byte × Byte)} {S : Bytes} :
    matchesPattern ps S = true ↔
      ps.length ≤ S.length ∧ ∀ (i : Nat) (p : Byte × Byte) (b : Byte), ps[i]? = some p → S[i]? = some b → b &&& p.2 = p.1 &&& p.2 := by
  induction ps generalizing S with
  | nil => simp [matchesPattern]
  | cons p ps ih =>
    cases S with
    | nil => simp [matchesPattern]
    | cons b S =>
      simp only [matchesPattern, Bool.and_eq_true, beq_iff_eq, ih, List.length_cons, Nat.add_le_add_iff_right]
      constructor
      · rintro ⟨h0, hl, h⟩
        refine ⟨hl, fun i q c hq hc => ?_⟩
        cases i with
        | zero => simp at hq hc; subst hq hc; exact h0
        | succ i => exact h i q c (by simpa using hq) (by simpa using hc)
      · rintro ⟨hl, h⟩
        exact ⟨h 0 p b rfl rfl, hl, fun i q c hq hc => h (i + 1) q c (by simpa using hq) (by simpa using hc)⟩

/-- All that `find` can answer (R7): the least offset, or none. -/
theorem findFrom_eq_some {S : Bytes} {b : Byte} {start k : Nat} :
    findFrom S b start = some k ↔ start ≤ k ∧ S[k]? = some b ∧ ∀ j, start ≤ j → j < k → S[j]? ≠ some b := by
  simp only [findFrom, Option.map_eq_some_iff, List.findIdx?_eq_some_iff_getElem, List.length_drop, List.getElem_drop,
    beq_iff_eq, List.getElem?_eq_some_iff, ne_eq, not_exists]
  constructor
  · rintro ⟨j, ⟨h, hb, hmin⟩, rfl⟩
    refine ⟨by omega, ⟨by omega, by simpa [Nat.add_comm] using hb⟩, fun m h1 h2 h3 => ?_⟩
    have := hmin (m - start) (by omega)
    have e : start + (m - start) = m := by omega
    simpa [e] using this
  · rintro ⟨h1, ⟨h2, h3⟩, hmin⟩
    refine ⟨k - start, ⟨by omega, ?_, fun j hj => ?_⟩, by omega⟩
    · have e : start + (k - start) = k := by omega
      simpa [e] using h3
    · exact hmin (start + j) (by omega) (by omega) (by omega)

theorem findFrom_eq_none {S : Bytes} {b : Byte} {start : Nat} :
    findFrom S b start = none ↔ ∀ j, start ≤ j → S[j]? ≠ some b := by
  simp only [findFrom, Option.map_eq_none_iff, List.findIdx?_eq_none_iff, beq_eq_false_iff_ne, ne_eq]
  constructor
  · intro h j hj hb
    refine h b ?_ rfl
    rw [List.mem_iff_getElem?]
    exact ⟨j - start, by rw [List.getElem?_drop]; simpa [show start + (j - start) = j by omega] using hb⟩
  · intro h x hx hb
    obtain ⟨j, hj⟩ := List.mem_iff_getElem?.1 hx
    rw [List.getElem?_drop] at hj
    exact h (start + j) (by omega) (by rw [hj, hb])

end Sys2Proof.Machine
end

