-- ==== Sys2Proof/Laws/Decode.lean ====
section
/-! SUPPORT. Each operand reader against its writer. -/

namespace Sys2Proof

theorem takeSeq_encodeSeq (S rest : Bytes) : takeSeq (encodeSeq S ++ rest) = .ok (S, rest) := by
  induction S with
  | nil => cases rest <;> simp [encodeSeq, takeSeq]
  | cons b S ih => simp [encodeSeq, takeSeq, ih, andThen]

theorem takeU16_le16 (v : U16) (rest : Bytes) : takeU16 (Machine.le16 v ++ rest) = .ok (v, rest) := by
  have := Machine.memRead16_le16 [] [] v
  simp only [Machine.le16, List.nil_append, List.append_nil, List.length_nil] at this
  simp [Machine.le16, takeU16, this]

theorem takeNat_natGroups (fuel n : Nat) (h : n ≤ fuel) (rest : Bytes) :
    takeNat (natGroups fuel n ++ rest) = .ok (n, rest) := by
  induction fuel generalizing n with
  | zero => obtain rfl : n = 0 := by omega
            simp [natGroups, takeNat]
  | succ fuel ih =>
    by_cases hn : n < 128
    · have : n % 256 = n := by omega
      simp [natGroups, takeNat, hn, this]
    · have h1 : (n % 128 + 128) % 256 = n % 128 + 128 := by omega
      have h2 : n / 128 ≠ 0 := by omega
      have h3 := ih (n / 128) (by omega)
      simp [natGroups, takeNat, hn, h1, h3, andThen]
      omega

theorem takeNat_encodeNat (n : Nat) (rest : Bytes) : takeNat (encodeNat n ++ rest) = .ok (n, rest) :=
  takeNat_natGroups n n le_rfl rest

theorem takeOptNat_encodeOptNat (n : Option Nat) (rest : Bytes) : takeOptNat (encodeOptNat n ++ rest) = .ok (n, rest) := by
  cases n with
  | none => simp [encodeOptNat, takeOptNat]
  | some n => simp [encodeOptNat, takeOptNat, takeNat_encodeNat, andThen]

end Sys2Proof
end

