-- ==== Sys2Proof/Laws/Operands.lean ====
section
/-! SUPPORT. What the operand checks can answer. -/

namespace Sys2Proof.Machine

theorem checkSerial_of_length {which : OperandName} {serial : Bytes} (h : serial.length = 10) :
    checkSerial which serial = .ok () := by simp [checkSerial, Config.serialLen, h]

theorem checkSerial_of_ne {which : OperandName} {serial : Bytes} (h : serial.length ≠ 10) :
    checkSerial which serial = .error (.badSerialLength which serial.length) := by simp [checkSerial, Config.serialLen, h]

theorem checkLength_of_le {which : OperandName} {S : Bytes} {max : Nat} (h : S.length ≤ max) :
    checkLength which S max = .ok () := by simp [checkLength, h]

theorem checkLength_of_lt {which : OperandName} {S : Bytes} {max : Nat} (h : max < S.length) :
    checkLength which S max = .error (.lengthOverflow which S.length max) := by simp [checkLength, Nat.not_le.2 h]

theorem checksumRange_cases (data : Bytes) (length : Option Nat) :
    (length = none ∧ checksumRange data length = some data) ∨
    (∃ n, length = some n ∧ n ≤ data.length ∧ checksumRange data length = some (data.take n)) ∨
    (∃ n, length = some n ∧ data.length < n ∧ checksumRange data length = none) := by
  cases length with
  | none => exact .inl ⟨rfl, rfl⟩
  | some n =>
    by_cases h : n ≤ data.length
    · exact .inr (.inl ⟨n, rfl, h, by simp [checksumRange, h]⟩)
    · exact .inr (.inr ⟨n, rfl, by omega, by simp [checksumRange, h]⟩)

end Sys2Proof.Machine
end

