-- ==== Sys2Proof/Laws/Encoders.lean ====
section
/-! SUPPORT. Each encoder's bytes, and each of its errors, as one equation. -/

namespace Sys2Proof.Machine

theorem buildCmd_of_length {inv : Bytes} (h : inv.length = 10) (start count : U16) :
    buildCmd inv start count = .ok (cmdBody inv start count ++ le16 (crc16 (cmdBody inv start count))) := by
  simp [buildCmd, checkSerial_of_length h]

theorem buildCmd_of_ne {inv : Bytes} (h : inv.length ≠ 10) (start count : U16) :
    buildCmd inv start count = .error (.badSerialLength .invSerial inv.length) := by
  simp [buildCmd, checkSerial_of_ne h]

theorem buildEnv_of_lengths {dl cmd : Bytes} (h : dl.length = 10) (hc : cmd.length ≤ 65535) :
    buildEnv dl cmd = .ok (dl ++ le16 (BitVec.ofNat 16 cmd.length) ++ cmd) := by
  rw [buildEnv, checkSerial_of_length h, checkLength_of_le (show cmd.length ≤ Config.maxCmdBytes from hc)]

theorem buildEnv_of_ne {dl : Bytes} (h : dl.length ≠ 10) (cmd : Bytes) :
    buildEnv dl cmd = .error (.badSerialLength .dlSerial dl.length) := by
  simp [buildEnv, checkSerial_of_ne h]

theorem buildEnv_of_long {dl cmd : Bytes} (h : dl.length = 10) (hc : 65535 < cmd.length) :
    buildEnv dl cmd = .error (.lengthOverflow .cmdBytes cmd.length 65535) := by
  rw [buildEnv, checkSerial_of_length h, checkLength_of_lt (show Config.maxCmdBytes < cmd.length from hc)]

theorem buildFrame_of_length {env : Bytes} (h : env.length ≤ 65533) (ver : U16) (fc : Byte) :
    buildFrame ver fc env =
      .ok ([0xA1#8, 0x1A#8] ++ le16 ver ++ le16 (BitVec.ofNat 16 (env.length + 2)) ++ [1#8, fc] ++ env) := by
  rw [buildFrame, checkLength_of_le (show env.length ≤ Config.maxEnvBytes from h)]
  rfl

theorem buildFrame_of_long {env : Bytes} (h : 65533 < env.length) (ver : U16) (fc : Byte) :
    buildFrame ver fc env = .error (.lengthOverflow .envBytes env.length 65533) := by
  rw [buildFrame, checkLength_of_lt (show Config.maxEnvBytes < env.length from h)]

end Sys2Proof.Machine
end

