-- ==== Sys2Proof/Laws/State.lean ====
section
/-! SUPPORT. One lemma for each field and each named update of the state, and what ending an operation gives. -/

namespace Sys2Proof.Machine

@[simp] theorem State.setPb_pb (s : State) (S : Bytes) : (s.setPb S).pb = S := rfl
@[simp] theorem State.setPb_requests (s : State) (S : Bytes) : (s.setPb S).requests = s.requests := rfl
@[simp] theorem State.setPb_outcomes (s : State) (S : Bytes) : (s.setPb S).outcomes = s.outcomes := rfl
@[simp] theorem State.report_pb (s : State) (o : OpOutcome) : (s.report o).pb = s.pb := rfl
@[simp] theorem State.report_requests (s : State) (o : OpOutcome) : (s.report o).requests = s.requests := rfl
@[simp] theorem State.report_outcomes (s : State) (o : OpOutcome) : (s.report o).outcomes = s.outcomes ++ [o] := rfl
@[simp] theorem State.setRequests_pb (s : State) (rs : List Bytes) : (s.setRequests rs).pb = s.pb := rfl
@[simp] theorem State.setRequests_requests (s : State) (rs : List Bytes) : (s.setRequests rs).requests = rs := rfl
@[simp] theorem State.setRequests_outcomes (s : State) (rs : List Bytes) : (s.setRequests rs).outcomes = s.outcomes := rfl
@[simp] theorem State.reset_pb : State.reset.pb = [] := rfl
@[simp] theorem State.reset_requests : State.reset.requests = [] := rfl
@[simp] theorem State.reset_outcomes : State.reset.outcomes = [] := rfl

/-- Ending with a result is always a next state, and this one (R8). -/
theorem finish_next {r : OpResult} {s t : State} : finish r s = .next t ↔ t = s.report (.ok r) := by
  simp [finish, eq_comm]

/-- Raising is always a next state: the error reported, nothing else (R150). -/
theorem raise_next {e : OpError} {s t : State} : raise e s = .next t ↔ t = s.report (.error e) := by
  simp [raise, eq_comm]

/-- All that ending an encoder can do. -/
theorem finishBytes_cases (r : Except OpError Bytes) (s : State) :
    (∃ S, r = .ok S ∧ finishBytes r s = .next (s.report (.ok (.bytes S)))) ∨
    (∃ e, r = .error e ∧ finishBytes r s = .next (s.report (.error e))) := by
  cases r with
  | ok S => exact .inl ⟨S, rfl, rfl⟩
  | error e => exact .inr ⟨e, rfl, rfl⟩

end Sys2Proof.Machine
end

