-- ==== Sys2Proof/Laws/Parser.lean ====
section
/-! SUPPORT. What one evaluation of the parser can pick, and the loop without its fuel. -/

namespace Sys2Proof.Machine

/-- The magic test, byte by byte (R14, R28). -/
theorem magic_iff {pb : Bytes} : magic pb = true ↔ pb[0]? = some 0xA1#8 ∧ pb[1]? = some 0x1A#8 := by
  match pb with
  | [] => simp [magic]
  | [_] => simp [magic]
  | _ :: _ :: _ => simp [magic, memRead8, Config.magic0, Config.magic1]

/-- All that one evaluation can pick, with the condition on `PB` (R100). -/
theorem selectMicroStep_cases (pb : Bytes) :
    (selectMicroStep pb = .wait ∧ quiescent pb = true) ∨
    (∃ k, selectMicroStep pb = .skip k ∧ 2 ≤ pb.length ∧ magic pb = false ∧ findFrom pb Config.magic0 1 = some k) ∨
    (selectMicroStep pb = .dropAll ∧ 2 ≤ pb.length ∧ magic pb = false ∧ findFrom pb Config.magic0 1 = none) ∨
    (selectMicroStep pb = .emit (total pb) ∧ magic pb = true ∧ 6 ≤ pb.length ∧ total pb ≤ pb.length) := by
  unfold selectMicroStep parserState quiescent
  cases hm : magic pb with
  | false =>
    by_cases h2 : pb.length < 2
    · simp [h2]
    · cases hf : findFrom pb Config.magic0 1 with
      | none => simp [h2]; omega
      | some k => simp [h2]; omega
  | true =>
    by_cases h6 : pb.length < 6
    · simp [h6]
    · by_cases ht : pb.length < total pb
      · simp [h6, ht]; omega
      · simp [h6, ht]; omega

/-- Every micro-step but P_WAIT shortens `PB` (R105). -/
theorem leaves_shorter {pb : Bytes} (h : selectMicroStep pb ≠ .wait) :
    ((selectMicroStep pb).leaves pb).length < pb.length := by
  rcases selectMicroStep_cases pb with ⟨e, _⟩ | ⟨k, e, h2, _, hk⟩ | ⟨e, h2, _⟩ | ⟨e, _, h6, _⟩
  · exact absurd e h
  · have := (findFrom_eq_some.1 hk).1
    simp [e, MicroStep.leaves]; omega
  · simp [e, MicroStep.leaves]; omega
  · simp [e, MicroStep.leaves, total, Config.frmLenBias]; omega

/-- Enough fuel is enough: more changes nothing (R105). -/
theorem seekLoop_fuel {pb : Bytes} {m n : Nat} (hm : pb.length < m) (hn : pb.length < n) :
    seekLoop m pb = seekLoop n pb := by
  induction m generalizing pb n with
  | zero => omega
  | succ m ih =>
    obtain ⟨n, rfl⟩ : ∃ n', n = n' + 1 := ⟨n - 1, by omega⟩
    by_cases hw : selectMicroStep pb = .wait
    · simp [seekLoop, hw]
    · have hl := leaves_shorter hw
      have := ih (pb := (selectMicroStep pb).leaves pb) (n := n) (by omega) (by omega)
      unfold seekLoop
      split
      · rfl
      · simp only [this]

/-- The loop where it waits. -/
theorem parse_wait {pb : Bytes} (h : selectMicroStep pb = .wait) : parse pb = ([], pb) := by
  simp [parse, seekLoop, h]

/-- The loop where it does not wait: one micro-step, then the loop on what it leaves (R100). -/
theorem parse_step {pb : Bytes} (h : selectMicroStep pb ≠ .wait) :
    parse pb = ((selectMicroStep pb).emits pb ++ (parse ((selectMicroStep pb).leaves pb)).1,
      (parse ((selectMicroStep pb).leaves pb)).2) := by
  have hl := leaves_shorter h
  have e := seekLoop_fuel (pb := (selectMicroStep pb).leaves pb) (m := pb.length)
    (n := ((selectMicroStep pb).leaves pb).length + 1) hl (by omega)
  unfold parse
  rw [← e]
  conv => lhs; unfold seekLoop
  split
  · exact absurd ‹_› h
  · rfl

theorem parse_skip {pb : Bytes} {k : Nat} (h : selectMicroStep pb = .skip k) : parse pb = parse (pb.drop k) := by
  rw [parse_step (by simp [h]), h]
  simp [MicroStep.emits, MicroStep.leaves]

theorem parse_dropAll {pb : Bytes} (h : selectMicroStep pb = .dropAll) : parse pb = ([], []) := by
  rw [parse_step (by simp [h]), h]
  simp [MicroStep.emits, MicroStep.leaves, parse_wait (pb := []) rfl]

theorem parse_emit {pb : Bytes} {t : Nat} (h : selectMicroStep pb = .emit t) :
    parse pb = (pb.take t :: (parse (pb.drop t)).1, (parse (pb.drop t)).2) := by
  rw [parse_step (by simp [h]), h]
  simp [MicroStep.emits, MicroStep.leaves]

/-- All that a micro-step request does where it is selected. -/
theorem runMicroStep_eq (m : MicroStep) (s : State) :
    runMicroStep m s = .next ((s.setPb (m.leaves s.pb)).report (.ok (.frames (m.emits s.pb)))) := rfl

/-- All that FEED does (R95, R113). -/
theorem execFeed_eq (chunk : Bytes) (s : State) :
    execFeed chunk s = .next ((s.setPb (parse (s.pb ++ chunk)).2).report (.ok (.frames (parse (s.pb ++ chunk)).1))) := rfl

end Sys2Proof.Machine
end

