-- ==== Sys2Proof/Laws/PerInstr.lean ====
section
/-! SUPPORT. A statement for each request: its encoding starts with the selector byte of its row, and that byte's class is the row's.
Bits 3..0 are OPSEL for an operation (R52); bits 7..4 are the class (log entry 1). -/

namespace Sys2Proof.Laws.HeaderByte

/-- The class of the row a request stands for: 0 operation, 1 wire format, 2 micro-step (R56). -/
def classOf : Instr → Nat
  | .cmd _ | .env _ | .frameOut _ | .frameIn _ | .request _ | .response _ => 1
  | .pWait | .pSkip | .pDropAll | .pEmit => 2
  | _ => 0

def Statement (i : Instr) : Prop := (encode i).head? = some (headerOf i) ∧ (headerOf i).toNat / 16 = classOf i

theorem reset : Statement .reset := by simp [Statement, encode, headerOf, classOf]
theorem crc16 (a : Bytes) (b : Option Nat) : Statement (.crc16 a b) := by simp [Statement, encode, headerOf, classOf]
theorem buildCmd (a : Bytes) (b c : U16) : Statement (.buildCmd a b c) := by simp [Statement, encode, headerOf, classOf]
theorem buildEnv (a b : Bytes) : Statement (.buildEnv a b) := by simp [Statement, encode, headerOf, classOf]
theorem buildFrame (a : U16) (b : Byte) (c : Bytes) : Statement (.buildFrame a b c) := by
  simp [Statement, encode, headerOf, classOf]
theorem encodeReq (a : U16) (b c : Bytes) (d e : U16) (f : Byte) : Statement (.encodeReq a b c d e f) := by
  simp [Statement, encode, headerOf, classOf]
theorem feed (a : Bytes) : Statement (.feed a) := by simp [Statement, encode, headerOf, classOf]
theorem decodeHdr (a : Bytes) : Statement (.decodeHdr a) := by simp [Statement, encode, headerOf, classOf]
theorem registerAt (a : Bytes) (b : Nat) : Statement (.registerAt a b) := by simp [Statement, encode, headerOf, classOf]
theorem handleFrame (a : Bytes) : Statement (.handleFrame a) := by simp [Statement, encode, headerOf, classOf]
theorem opselReserved (c : BitVec 4) : Statement (.opselReserved c) := by
  have := c.isLt
  simp [Statement, encode, headerOf, classOf]
  omega
theorem cmd (a : Bytes) : Statement (.cmd a) := by simp [Statement, encode, headerOf, classOf]
theorem env (a : Bytes) : Statement (.env a) := by simp [Statement, encode, headerOf, classOf]
theorem frameOut (a : Bytes) : Statement (.frameOut a) := by simp [Statement, encode, headerOf, classOf]
theorem frameIn (a : Bytes) : Statement (.frameIn a) := by simp [Statement, encode, headerOf, classOf]
theorem request (a : Bytes) : Statement (.request a) := by simp [Statement, encode, headerOf, classOf]
theorem response (a : Bytes) : Statement (.response a) := by simp [Statement, encode, headerOf, classOf]
theorem pWait : Statement .pWait := by simp [Statement, encode, headerOf, classOf]
theorem pSkip : Statement .pSkip := by simp [Statement, encode, headerOf, classOf]
theorem pDropAll : Statement .pDropAll := by simp [Statement, encode, headerOf, classOf]
theorem pEmit : Statement .pEmit := by simp [Statement, encode, headerOf, classOf]

end Sys2Proof.Laws.HeaderByte
end

