-- ==== Sys2Proof/Tests/Slice0.lean ====
section
/-! SUPPORT. Tests: expected values are the vectors T1 to T8 and V1 to V82 of 95_test_vectors.md, or the tables of 30_encoding.md.
The witnesses at the end show that the hypotheses of each statement can be met, each clause at a boundary. -/

namespace Sys2Proof.Tests

open Sys2Proof Sys2Proof.Machine Sys2Proof.Safety

/-! ### Well-formedness -/

/-- Code 9 is HANDLE_FRAME's, so it is not reserved (R52). -/
theorem test_wf_refuses_assigned_code : (Instr.opselReserved 9).wf = false := by decide
theorem test_wf_refuses_code_zero : (Instr.opselReserved 0).wf = false := by decide
theorem test_wf_accepts_first_reserved_code : (Instr.opselReserved 10).wf = true := by decide

/-! ### Decoding: OPSEL codes of R52 in bits 3..0, operands by the layout of Decode.lean -/

theorem test_decode_reset : decode [0b00000000] = .ok .reset := by rfl
theorem test_decode_crc16 : decode [0b00000001, 1, 0x31, 0, 0] = .ok (.crc16 [0x31] none) := by rfl
theorem test_decode_crc16_range : decode [0b00000001, 0, 1, 0b10101100, 0b00000010] = .ok (.crc16 [] (some 300)) := by rfl
theorem test_decode_build_cmd : decode [0b00000010, 1, 0xAA, 0, 0x34, 0x12, 0x7F, 0x00] = .ok (.buildCmd [0xAA] 0x1234 0x007F) := by rfl
theorem test_decode_build_env : decode [0b00000011, 1, 0xFF, 0, 1, 0x01, 1, 0x02, 0] = .ok (.buildEnv [0xFF] [0x01, 0x02]) := by rfl
theorem test_decode_build_frame : decode [0b00000100, 0x02, 0x01, 0xAB, 0] = .ok (.buildFrame 0x0102 0xAB []) := by rfl
theorem test_decode_encode_req :
    decode [0b00000101, 0x02, 0x00, 1, 0x42, 0, 1, 0x43, 0, 0x05, 0x00, 0x7F, 0x00, 0xC1] =
      .ok (.encodeReq 2 [0x42] [0x43] 5 0x7F 0xC1) := by rfl
theorem test_decode_feed : decode [0b00000110, 1, 0xA1, 1, 0x1A, 0] = .ok (.feed [0xA1, 0x1A]) := by rfl
theorem test_decode_decode_hdr : decode [0b00000111, 1, 0x05, 0] = .ok (.decodeHdr [0x05]) := by rfl
theorem test_decode_register_at : decode [0b00001000, 1, 0x05, 0, 27] = .ok (.registerAt [0x05] 27) := by rfl
theorem test_decode_handle_frame : decode [0b00001001, 1, 0x05, 0] = .ok (.handleFrame [0x05]) := by rfl
theorem test_decode_reserved : decode [0b00001111] = .ok (.opselReserved 0b1111) := by rfl
theorem test_decode_cmd : decode [0b00010000, 0] = .ok (.cmd []) := by rfl
theorem test_decode_env : decode [0b00010001, 0] = .ok (.env []) := by rfl
theorem test_decode_frame_out : decode [0b00010010, 0] = .ok (.frameOut []) := by rfl
theorem test_decode_frame_in : decode [0b00010011, 1, 0xA1, 0] = .ok (.frameIn [0xA1]) := by rfl
theorem test_decode_request : decode [0b00010100, 0] = .ok (.request []) := by rfl
theorem test_decode_response : decode [0b00010101, 0] = .ok (.response []) := by rfl
theorem test_decode_p_wait : decode [0b00100000] = .ok .pWait := by rfl
theorem test_decode_p_skip : decode [0b00100001] = .ok .pSkip := by rfl
theorem test_decode_p_drop_all : decode [0b00100010] = .ok .pDropAll := by rfl
theorem test_decode_p_emit : decode [0b00100011] = .ok .pEmit := by rfl

/-! Rejected by name. -/

theorem test_reject_empty : decode [] = .error .truncated := by decide
theorem test_reject_unassigned_class : decode [0x16] = .error (.unassignedSelector 0x16) := by decide
theorem test_reject_flag : decode [0x06, 2] = .error (.badFlag 2) := by decide
theorem test_reject_long_number : decode [0x08, 0, 0x85, 0x00] = .error .longNumber := by decide
theorem test_reject_trailing : decode [0x00, 0x01] = .error .trailingBytes := by decide

/-! ### One step each -/

/-- A state with this Parse Buffer and nothing on the host's side. -/
def st (pb : Bytes) : State := { pb := pb, requests := [], outcomes := [] }

/-- The state after one request: this buffer, this one outcome. -/
def after (pb : Bytes) (o : OpOutcome) : Host.Outcome State Fault Refusal :=
  .next { pb := pb, requests := [], outcomes := [o] }

/-- V81. -/
theorem test_reset : exec .reset (st [0xA1, 0x1A, 0x01, 0x00, 0x20]) = after [] (.ok .done) := by rfl

set_option maxRecDepth 20000 in
/-- V9, the check value. -/
theorem test_crc16_check_value :
    exec (.crc16 [0x31, 0x32, 0x33, 0x34, 0x35, 0x36, 0x37, 0x38, 0x39] none) (st []) = after [] (.ok (.crc 0x4B37)) := by rfl

set_option maxRecDepth 20000 in
/-- V6 through the range form (R71). -/
theorem test_crc16_range : exec (.crc16 [0x00, 0x04, 0xFF] (some 2)) (st []) = after [] (.ok (.crc 0x7300)) := by rfl

set_option maxRecDepth 20000 in
/-- V24. -/
theorem test_build_cmd :
    exec (.buildCmd [0x42, 0x41, 0x31, 0x32, 0x33, 0x34, 0x35, 0x36, 0x37, 0x38] 0x1234 0x007F) (st [0x01]) =
      after [0x01] (.ok (.bytes [0x00, 0x04, 0x42, 0x41, 0x31, 0x32, 0x33, 0x34, 0x35, 0x36, 0x37, 0x38, 0x34, 0x12, 0x7F, 0x00,
        0x65, 0x55])) := by rfl

/-- V26. -/
theorem test_build_cmd_long_serial :
    exec (.buildCmd [0, 0, 0, 0, 0, 0, 0, 0, 0, 0, 0] 0 40) (st []) = after [] (.error (.badSerialLength .invSerial 11)) := by rfl

/-- V32. -/
theorem test_build_env :
    exec (.buildEnv [0x41, 0x42, 0x43, 0x44, 0x45, 0x46, 0x47, 0x48, 0x49, 0x4A] [0x01, 0x02, 0x03]) (st []) =
      after [] (.ok (.bytes [0x41, 0x42, 0x43, 0x44, 0x45, 0x46, 0x47, 0x48, 0x49, 0x4A, 0x03, 0x00, 0x01, 0x02, 0x03])) := by rfl

/-- V33. -/
theorem test_build_env_short_serial :
    exec (.buildEnv [0xFF, 0xFF, 0xFF, 0xFF, 0xFF, 0xFF, 0xFF, 0xFF] [0x01]) (st []) =
      after [] (.error (.badSerialLength .dlSerial 8)) := by rfl

/-- V36: the version's low byte first. -/
theorem test_build_frame_empty :
    exec (.buildFrame 0x0102 0xAB []) (st []) =
      after [] (.ok (.bytes [0xA1, 0x1A, 0x02, 0x01, 0x02, 0x00, 0x01, 0xAB])) := by rfl

/-- V37. -/
theorem test_build_frame :
    exec (.buildFrame 5 193 [0x11, 0x22, 0x33]) (st []) =
      after [] (.ok (.bytes [0xA1, 0x1A, 0x05, 0x00, 0x05, 0x00, 0x01, 0xC1, 0x11, 0x22, 0x33])) := by rfl

/-- The 38 bytes of V41. -/
def v41 : Bytes :=
  [0xA1, 0x1A, 0x02, 0x00, 0x20, 0x00, 0x01, 0xC1, 0x42, 0x41, 0x31, 0x32, 0x33, 0x34, 0x35, 0x36, 0x37, 0x38, 0x12, 0x00]
    ++ [0x00, 0x04, 0x43, 0x44, 0x38, 0x37, 0x36, 0x35, 0x34, 0x33, 0x32, 0x31, 0x00, 0x00, 0x7F, 0x00, 0x9F, 0x6C]

set_option maxRecDepth 20000 in
/-- V41. -/
theorem test_encode_req :
    exec (.encodeReq 2 [0x42, 0x41, 0x31, 0x32, 0x33, 0x34, 0x35, 0x36, 0x37, 0x38]
      [0x43, 0x44, 0x38, 0x37, 0x36, 0x35, 0x34, 0x33, 0x32, 0x31] 0 127 193) (st []) = after [] (.ok (.bytes v41)) := by rfl

/-- V42: the inverter serial is checked first. -/
theorem test_encode_req_both_serials_bad :
    exec (.encodeReq 1 (List.replicate 11 0xFF) (List.replicate 9 0) 0 40 194) (st []) =
      after [] (.error (.badSerialLength .invSerial 9)) := by rfl

/-- V44o. -/
theorem test_feed_two_frames :
    exec (.feed [0xA1, 0x1A, 0x01, 0x00, 0x00, 0x00, 0x01, 0xA1, 0x1A, 0x01, 0x00, 0x01, 0x00, 0x01, 0x7F]) (st []) =
      after [0x7F] (.ok (.frames [[0xA1, 0x1A, 0x01, 0x00, 0x00, 0x00], [0xA1, 0x1A, 0x01, 0x00, 0x01, 0x00, 0x01]])) := by rfl

/-- V44n: skips inside garbage, then a frame, then a drop. -/
theorem test_feed_resync :
    exec (.feed [0x11, 0x22, 0xA1, 0x33, 0xA1, 0x1A, 0x01, 0x00, 0x00, 0x00, 0x01, 0xC2]) (st []) =
      after [] (.ok (.frames [[0xA1, 0x1A, 0x01, 0x00, 0x00, 0x00]])) := by rfl

/-- V70. -/
theorem test_decode_hdr :
    exec (.decodeHdr [0xA1, 0x1A, 0x05, 0x00, 0x05, 0x00, 0x01, 0xC1, 0x11, 0x22, 0x33]) (st []) =
      after [] (.ok (.header (some { protocolVersion := 5, tcpFc := 193, payload := [0x11, 0x22, 0x33] }))) := by rfl

/-- V71. -/
theorem test_decode_hdr_seven_bytes :
    exec (.decodeHdr [0xA1, 0x1A, 0x02, 0x00, 0x01, 0x00, 0x01]) (st []) = after [] (.ok (.header none)) := by rfl

/-- A response of the vectors V60 to V67: header, bytes 8..48 zero, then the bytes from register 7 on. -/
def response (fromRegister7 : Bytes) : Bytes :=
  [0xA1, 0x1A, 0x02, 0x00, 0x55, 0x00, 0x01, 0xC2] ++ List.replicate 41 0 ++ fromRegister7

/-- V66: the low byte of a register whose high byte is missing is not read. -/
theorem test_register_at_half_register :
    exec (.registerAt (response ([0x01, 0x00, 0x02, 0x00, 0x03, 0x00] ++ List.replicate 12 0 ++ [0x0A, 0x00, 0x01, 0x00]
      ++ List.replicate 16 0 ++ [0x00, 0x00, 0x34])) 27) (st []) = after [] (.ok (.register 0)) := by rfl

/-- V74, register 7 of V61. -/
theorem test_register_at_seven :
    exec (.registerAt (response [0x64, 0x00, 0xC8, 0x00, 0x32, 0x00]) 7) (st []) = after [] (.ok (.register 100)) := by rfl

/-- V60: raw = -135, clamped. -/
theorem test_handle_frame_clamps :
    exec (.handleFrame (response (List.replicate 18 0 ++ [0x05, 0x00, 0x32, 0x00] ++ List.replicate 16 0 ++ [0x64, 0x00, 0x0A, 0x00])))
      (st []) = after [] (.ok (.metrics (some { pvFlowWatts := 0, consumptionWatts := 0 }))) := by rfl

/-- V62. -/
theorem test_handle_frame_metrics :
    exec (.handleFrame (response ([0xB0, 0x04, 0x20, 0x03, 0x00, 0x00] ++ List.replicate 12 0 ++ [0xB8, 0x0B, 0xF4, 0x01]
      ++ List.replicate 16 0 ++ [0x14, 0x00, 0xBC, 0x02]))) (st []) =
      after [] (.ok (.metrics (some { pvFlowWatts := 2000, consumptionWatts := 3180 }))) := by rfl

/-- R53. -/
theorem test_opsel_reserved : exec (.opselReserved 0xC) (st []) = .refused (.reservedOpsel 0xC) := by rfl

/-- V20's command against the table of R41. -/
theorem test_cmd_fields :
    exec (.cmd [0x00, 0x04, 0, 0, 0, 0, 0, 0, 0, 0, 0, 0, 0x00, 0x00, 0x28, 0x00, 0xA4, 0xF3]) (st []) =
      after [] (.ok (.cmdFields (some ⟨0, 4, List.replicate 10 0, 0, 40, 0xF3A4⟩))) := by rfl

/-- V31's envelope. -/
theorem test_env_fields :
    exec (.env (List.replicate 10 0xFF ++ [0x00, 0x00])) (st []) =
      after [] (.ok (.envFields (some { dataloggerSerial := List.replicate 10 0xFF, envLen := 0, payload := [] }))) := by rfl

/-- V36's frame. -/
theorem test_frame_out_fields :
    exec (.frameOut [0xA1, 0x1A, 0x02, 0x01, 0x02, 0x00, 0x01, 0xAB]) (st []) =
      after [] (.ok (.frameOutFields (some ⟨[0xA1, 0x1A], 0x0102, 2, 1, 0xAB, []⟩))) := by rfl

/-- The parser does not test byte 6 (R50); the encoder's pattern does (R49). -/
theorem test_frame_in_accepts_other_type :
    exec (.frameIn [0xA1, 0x1A, 0x02, 0x01, 0x02, 0x00, 0x07, 0xAB]) (st []) =
      after [] (.ok (.frameInFields (some ⟨[0xA1, 0x1A], 0x0102, 2, [0x07, 0xAB]⟩))) := by rfl

theorem test_frame_out_rejects_other_type :
    exec (.frameOut [0xA1, 0x1A, 0x02, 0x01, 0x02, 0x00, 0x07, 0xAB]) (st []) = after [] (.ok (.frameOutFields none)) := by rfl

/-- V41 against the table of R44. -/
theorem test_request_fields :
    exec (.request v41) (st []) = after [] (.ok (.requestFields (some
      ⟨⟨[0xA1, 0x1A], 2, 32, 1, 193, v41.drop 8⟩,
       ⟨[0x42, 0x41, 0x31, 0x32, 0x33, 0x34, 0x35, 0x36, 0x37, 0x38], 18, v41.drop 20⟩,
       ⟨0, 4, [0x43, 0x44, 0x38, 0x37, 0x36, 0x35, 0x34, 0x33, 0x32, 0x31], 0, 127, 0x6C9F⟩⟩))) := by rfl

/-- V61's registers, V72's function code. -/
theorem test_response_fields :
    (readResponse (response [0x64, 0x00, 0xC8, 0x00, 0x32, 0x00])).map (fun f => (f.register7, f.register8, f.register9)) =
      some (100, 200, 50) := by rfl

/-- V44m, V44e, V44c, V44l: one micro-step each. -/
theorem test_p_wait : exec .pWait (st [0xA1, 0x1A, 0xFF, 0xFF, 0xFF, 0xFF]) =
    after [0xA1, 0x1A, 0xFF, 0xFF, 0xFF, 0xFF] (.ok (.frames [])) := by rfl
theorem test_p_skip : exec .pSkip (st [0xA1, 0xA1, 0x1A]) = after [0xA1, 0x1A] (.ok (.frames [])) := by rfl
theorem test_p_drop_all : exec .pDropAll (st [0xA1, 0x00]) = after [] (.ok (.frames [])) := by rfl
theorem test_p_emit : exec .pEmit (st [0xA1, 0x1A, 0x01, 0x00, 0x00, 0x00, 0x01, 0xC2]) =
    after [0x01, 0xC2] (.ok (.frames [[0xA1, 0x1A, 0x01, 0x00, 0x00, 0x00]])) := by rfl
theorem test_p_skip_not_selected : exec .pSkip (st [0xA1, 0x00]) = .refused .microStepNotSelected := by rfl

/-- The host's check: the word put where the step looks runs first, from reset. -/
theorem test_fetch_from_reset : step (State.reset.withFetchWord 8 0x0) = after [] (.ok .done) := by rfl
theorem test_step_refuses_garbage : step { st [] with requests := [[0xFF]] } = .refused (.undecodable (.unassignedSelector 0xFF)) := by
  rfl

/-! ### Witnesses -/

def serial10 : Bytes := List.replicate 10 0x30
def frameA : Bytes := [0xA1, 0x1A, 0x01, 0x00, 0x04, 0x00, 0x01, 0xC1, 0x11, 0x22]
def frameB : Bytes := [0xA1, 0x1A, 0x01, 0x00, 0x05, 0x00, 0x01, 0xC2, 0xA1, 0x1A, 0x33]

/-- A length met at its bound, without writing the list out. -/
theorem exists_length (n : Nat) : ∃ bytes : Bytes, bytes.length = n := ⟨List.replicate n 0, List.length_replicate⟩

theorem witness_DecodeInvertsEncode :
    (Instr.opselReserved 10).wf = true ∧ (Instr.opselReserved 15).wf = true ∧ (Instr.registerAt [1] 128).wf = true := by decide
theorem witness_OnlyEncodingsDecode : decode [0x08, 0x00, 0x00, 0x00] = .ok (.registerAt [] 0) := by decide
theorem witness_StepRunsTheDecodedRequest :
    ({ st [] with requests := [[0x00]] } : State).requests = [0x00] :: [] ∧ decode [0x00] = .ok .reset ∧
    decode [0xFF] = .error (.unassignedSelector 0xFF) ∧ (st []).requests = [] := by decide
theorem witness_FetchedWordRunsNext : decodeTableWord 8 0x9 = some (.handleFrame []) := by decide
theorem witness_RequestsRunInTheOrderIssued : ∀ i ∈ ([.reset, .feed [0xA1], .opselReserved 10] : List Instr), i.wf = true := by decide
theorem witness_OperationsEndInOneOutcome : IsOperation (.crc16 [] none) ∧ IsOperation .reset ∧ IsOperation (.handleFrame []) :=
  ⟨rfl, trivial, trivial⟩
theorem witness_ReservedSelectorIsRefused : 10 ≤ (10 : BitVec 4).toNat ∧ 10 ≤ (15 : BitVec 4).toNat ∧
    ({ st [] with requests := [[(10 : BitVec 4).setWidth 8]] } : State).requests = [(10 : BitVec 4).setWidth 8] :: [] := by decide
theorem witness_EveryRequestAddsExactlyOneOutcome : exec .pWait (st []) = after [] (.ok (.frames [])) := by rfl
theorem crc16_off_the_buffer (data : Bytes) (len : Option Nat) : ¬ TouchesBuffer (.crc16 data len) := by
  rintro (h | ⟨_, h⟩ | h) <;> simp [microSteps] at h
theorem witness_PurityAndIdempotency :
    IsOperation (.crc16 [] none) ∧ ¬ TouchesBuffer (.crc16 [] none) ∧ exec .reset (st [0xA1]) = after [] (.ok .done) ∧
    exec (.feed [0x05]) (st []) = after [0x05] (.ok (.frames [])) ∧ ∃ c : Bytes, c.length = 32766 + 1 :=
  ⟨rfl, crc16_off_the_buffer _ _, rfl, rfl, exists_length _⟩
theorem witness_RequestsOffTheBufferGiveOneAnswer :
    ¬ TouchesBuffer (.crc16 [0x31] (some 1)) ∧ ¬ TouchesBuffer (.crc16 [0x31] (some 2)) :=
  ⟨crc16_off_the_buffer _ _, crc16_off_the_buffer _ _⟩
theorem witness_EffectDependsOnTheBufferAlone :
    (st [0xA1]).pb = ({ st [0xA1] with requests := [[0x00]], outcomes := [.ok .done] } : State).pb := rfl
theorem witness_ErrorsComeFromEncodersAndChangeNothing :
    exec (.buildCmd [] 0 0) (st [0xA1]) = after [0xA1] (.error (.badSerialLength .invSerial 0)) := by rfl
theorem witness_Crc16FollowsTheBitRounds : (65535 : Nat) < 65536 := by decide
theorem witness_Crc16RangeForm : 2 ≤ ([0x00, 0x04] : Bytes).length ∧ ([0x00, 0x04] : Bytes).length < 3 := by decide
theorem witness_BuildCmdLaysOutTheCommand : serial10.length = 10 ∧ (List.replicate 9 0 : Bytes).length ≠ 10 ∧
    (List.replicate 11 0 : Bytes).length ≠ 10 := by decide
theorem witness_BuildEnvLaysOutTheEnvelope : serial10.length = 10 ∧ ∃ cmd : Bytes, cmd.length = 65535 := ⟨rfl, exists_length _⟩
theorem witness_BuildEnvChecksSerialThenLength :
    ([] : Bytes).length ≠ 10 ∧ serial10.length = 10 ∧ ∃ cmd : Bytes, cmd.length = 65535 + 1 := ⟨by decide, rfl, exists_length _⟩
theorem witness_BuildFrameLaysOutTheFrame : ∃ payload : Bytes, payload.length = 65533 := exists_length _
theorem witness_BuildFrameRefusesLongEnvelopes : ∃ env : Bytes, env.length = 65533 + 1 := exists_length _
theorem witness_EncodeReqLaysOutTheRequest : ∃ dl inv : Bytes, dl.length = 10 ∧ inv.length = 10 := ⟨serial10, serial10, by decide, by decide⟩
theorem witness_EncodeReqChecksInverterSerialFirst : ∃ dl inv : Bytes, inv.length ≠ 10 ∧ serial10.length = 10 ∧ dl.length ≠ 10 :=
  ⟨List.replicate 11 0, List.replicate 9 0, by decide, by decide, by decide⟩
theorem witness_WaitingKeepsTheBuffer :
    Quiescent ((st []).pb ++ [0x00]) ∧ Quiescent ((st [0xA1]).pb ++ [0x1A]) ∧ Quiescent ((st [0xA1, 0x1A, 0, 0, 0]).pb ++ []) ∧
    Quiescent ((st [0xA1, 0x1A, 0, 0, 1]).pb ++ [0]) := by decide
theorem witness_SkippingResyncsToTheNextCandidate :
    [0xA1, 0xA1, 0x1A] = (st [0xA1]).pb ++ [0xA1, 0x1A] ∧ 2 ≤ ([0xA1, 0xA1, 0x1A] : Bytes).length ∧
    ¬ StartsWithMagic [0xA1, 0xA1, 0x1A] ∧ 1 ≤ 1 ∧ ([0xA1, 0xA1, 0x1A] : Bytes)[1]? = some 0xA1 ∧
    ∀ j : Nat, 1 ≤ j → j < 1 → ([0xA1, 0xA1, 0x1A] : Bytes)[j]? ≠ some 0xA1 := by
  refine ⟨rfl, by decide, by decide, by decide, by decide, fun j h1 h2 => by omega⟩
theorem no_candidate_after_first : ∀ j : Nat, 1 ≤ j → ([0xA1, 0x00] : Bytes)[j]? ≠ some 0xA1
  | 1, _ => by decide
  | j + 2, _ => by simp
theorem witness_DroppingAllEmptiesTheBuffer :
    [0xA1, 0x00] = (st [0xA1]).pb ++ [0x00] ∧ 2 ≤ ([0xA1, 0x00] : Bytes).length ∧ ¬ StartsWithMagic [0xA1, 0x00] ∧
    ∀ j : Nat, 1 ≤ j → ([0xA1, 0x00] : Bytes)[j]? ≠ some 0xA1 := ⟨rfl, by decide, by decide, no_candidate_after_first⟩
theorem witness_EmittingCutsTheDeclaredLength :
    [0xA1, 0x1A, 0, 0, 0, 0] = (st [0xA1]).pb ++ [0x1A, 0, 0, 0, 0] ∧ StartsWithMagic [0xA1, 0x1A, 0, 0, 0, 0] ∧
    6 ≤ ([0xA1, 0x1A, 0, 0, 0, 0] : Bytes).length ∧ leAt [0xA1, 0x1A, 0, 0, 0, 0] 4 + 6 ≤ ([0xA1, 0x1A, 0, 0, 0, 0] : Bytes).length := by
  decide
theorem witness_MicroStepsActWhereSelected :
    Quiescent (st [0xA1, 0x1A, 0, 0, 0]).pb ∧ (st [0x00, 0xA1]).pb[1]? = some 0xA1 ∧ ¬ StartsWithMagic (st [0x00, 0xA1]).pb ∧
    2 ≤ (st [0xA1, 0x00]).pb.length ∧ ¬ StartsWithMagic (st [0xA1, 0x00]).pb ∧
    (∀ j : Nat, 1 ≤ j → (st [0xA1, 0x00]).pb[j]? ≠ some 0xA1) ∧
    StartsWithMagic (st [0xA1, 0x1A, 0, 0, 0, 0]).pb ∧ leAt (st [0xA1, 0x1A, 0, 0, 0, 0]).pb 4 + 6 ≤ (st [0xA1, 0x1A, 0, 0, 0, 0]).pb.length :=
  ⟨by decide, by decide, by decide, by decide, by decide, no_candidate_after_first, by decide, by decide⟩
theorem witness_MicroStepsShortenTheBuffer :
    exec .pSkip (st [0x00, 0xA1]) = after [0xA1] (.ok (.frames [])) ∧ exec .pDropAll (st [0x00, 0x00]) = after [] (.ok (.frames [])) ∧
    exec .pEmit (st [0xA1, 0x1A, 0, 0, 0, 0]) = after [] (.ok (.frames [[0xA1, 0x1A, 0, 0, 0, 0]])) := ⟨rfl, rfl, rfl⟩
theorem witness_FeedAlwaysReturnsFrames :
    Quiescent (st []).pb ∧ exec (.feed [0xA1]) (st []) = after [0xA1] (.ok (.frames [])) ∧ ([0xA1] : Bytes) ≠ (st []).pb := by
  exact ⟨by decide, rfl, by decide⟩
theorem witness_EmittedFramesAreAsLongAsTheyDeclare :
    exec (.feed frameA) (st []) = after [] (.ok (.frames [frameA])) ∧ frameA ∈ [frameA] := ⟨rfl, by simp⟩
theorem witness_FeedLeavesAQuiescentBuffer : exec (.feed [0xA1, 0x1A]) (st []) = after [0xA1, 0x1A] (.ok (.frames [])) := by rfl
theorem witness_StepKeepsTheBufferQuiescent :
    Quiescent (st [0xA1]).pb ∧ step { st [0xA1] with requests := [[0x06, 1, 0x1A, 0]] } = after [0xA1, 0x1A] (.ok (.frames [])) :=
  ⟨by decide, rfl⟩
theorem witness_CuttingTheStreamDoesNotChangeTheFrames :
    ([[0xA1, 0x00], [0x1A]] : List Bytes) ≠ [] ∧ ([[0xA1, 0x00, 0x1A]] : List Bytes) ≠ [] ∧
    ([[0xA1, 0x00], [0x1A]] : List Bytes).flatten = [[0xA1, 0x00, 0x1A]].flatten := by decide
/-- V50 and V51: one stray byte. -/
theorem witness_CuttingTheStreamLeavesAtMostAStrayByte :
    execAll (feedAll [[0xA1, 0x00], [0x1A]]) State.reset = .next { st [0x1A] with outcomes := [.ok (.frames []), .ok (.frames [])] } ∧
    execAll (feedAll [[0xA1, 0x00, 0x1A]]) State.reset = .next { st [] with outcomes := [.ok (.frames [])] } := ⟨rfl, rfl⟩
theorem witness_EncodedFramesSurviveGarbage :
    (st []).pb = [] ∧ ¬ HasMagicPair [0x55, 0x66, 0xA1] ∧
    exec (.buildFrame 1 193 [0x11, 0x22]) (st []) = after [] (.ok (.bytes frameA)) ∧
    exec (.buildFrame 1 194 [0xA1, 0x1A, 0x33]) (st []) = after [] (.ok (.bytes frameB)) ∧
    [[0x55], [0x66, 0xA1] ++ frameA ++ frameB].flatten = [0x55, 0x66, 0xA1] ++ [frameA, frameB].flatten := by
  refine ⟨rfl, ?_, rfl, rfl, rfl⟩
  rintro ⟨k, h1, h2⟩
  match k, h1, h2 with
  | 0, h, _ => revert h; decide
  | 1, h, _ => revert h; decide
  | 2, _, h => revert h; decide
  | k + 3, h, _ => simp at h
theorem witness_FrameComesWithItsLastByte :
    (st []).pb = [] ∧ IsFrame frameA ∧ IsFrame frameB ∧ frameA = frameA.take 9 ++ frameA.drop 9 ∧ frameA.drop 9 ≠ [] ∧
    frameA = [] ++ frameA ∧ frameA ≠ [] := by decide
theorem witness_DecodeHdrSplitsTheHeader : (frameA.take 7).length < 8 ∧ 8 ≤ (frameA.take 8).length := by decide
theorem witness_HeaderRoundTrip : ∃ payload : Bytes, payload.length = 65533 := exists_length _
theorem witness_RegisterAtReadsBothBytesOrZero :
    2 * 0 + 37 ≤ (List.replicate 37 0 : Bytes).length ∧ (List.replicate 36 0 : Bytes).length < 2 * 0 + 37 := by decide
theorem witness_HandleFrameDerivesTheMetrics :
    (∀ i : Nat, (fun _ => 0 : Nat → Nat) i = if 2 * i + 37 ≤ (frameB.take 8).length then leAt (frameB.take 8) (35 + 2 * i) else 0) ∧
    (frameB.take 8)[7]? = some 194 ∧ (frameB.take 7).length < 8 := by
  refine ⟨fun i => ?_, by decide, by decide⟩
  rw [if_neg]
  simp only [show (frameB.take 8).length = 8 from rfl]
  omega
theorem witness_OtherFunctionCodesGiveNone : frameA[7]? = some 193 ∧ (193 : Byte) ≠ 194 ∧ (195 : Byte) ≠ 194 := by decide
theorem witness_DecodingIsTolerant :
    (frameB.take 8)[7]? = some 194 ∧ 91 ≤ (List.replicate 91 0 : Bytes).length ∧
    frameA.length = (0x00 :: frameA.drop 1).length ∧ frameA[7]? = (0x00 :: frameA.drop 1)[7]? ∧
    frameA.drop 35 = (0x00 :: frameA.drop 1).drop 35 := by decide
theorem witness_MetricsStayInRange :
    exec (.handleFrame (frameB.take 8)) (st []) =
      after [] (.ok (.metrics (some { pvFlowWatts := 0, consumptionWatts := 0 }))) := by rfl
theorem witness_CmdFormatSplits :
    ([0x00, 0x04] ++ List.replicate 16 0 : Bytes).length = 18 ∧ ([0x00, 0x04] ++ List.replicate 16 0 : Bytes)[0]? = some 0 ∧
    ([0x00, 0x04] ++ List.replicate 16 0 : Bytes)[1]? = some 4 ∧ (List.replicate 17 0 : Bytes).length ≠ 18 := by decide
theorem witness_EnvFormatSplits :
    12 ≤ (List.replicate 12 0 : Bytes).length ∧ (List.replicate 12 0 : Bytes).length = 12 + leAt (List.replicate 12 0) 10 ∧
    (List.replicate 11 0 : Bytes).length < 12 ∧ (List.replicate 13 0 : Bytes).length ≠ 12 + leAt (List.replicate 13 0) 10 := by decide
theorem witness_FrameFormatsSplit :
    IsFrame [0xA1, 0x1A, 0, 0, 0, 0] ∧ ¬ IsFrame [0xA1, 0x1A, 0, 0, 0] ∧ IsFrame (frameA.take 4 ++ [2, 0, 1, 0]) ∧
    8 ≤ (frameA.take 4 ++ [2, 0, 1, 0]).length ∧ (frameA.take 4 ++ [2, 0, 1, 0])[6]? = some 1 ∧
    ([0xA1, 0x1A, 0, 0, 1, 0, 1] : Bytes).length < 8 := by decide
theorem witness_RequestReadsBack : ∃ dl inv : Bytes, dl.length = 10 ∧ inv.length = 10 := ⟨serial10, serial10, by decide, by decide⟩
theorem witness_RequestFormatTestsItsFixedBytes : IsRequest v41 ∧ ¬ IsRequest (v41.take 37) ∧ ¬ IsRequest (v41 ++ [0]) := by decide
theorem witness_ResponseFormatReadsTheNamedRegisters : (frameB.take 8)[7]? = some 194 ∧ (frameB.take 7)[7]? ≠ some 194 := by decide
theorem witness_EmittedFramesHaveFormatFrameIn :
    exec (.feed [0xA1, 0x1A, 0, 0, 0, 0]) (st []) = after [] (.ok (.frames [[0xA1, 0x1A, 0, 0, 0, 0]])) := by rfl

end Sys2Proof.Tests
end

/-! PROOFS. Each operation ends in exactly one outcome (00_scope.md R8). -/

namespace Sys2Proof.Machine

open Sys2Proof.Safety

/-- An encoder ends in the outcome its bytes or its error fix, from every state (R75, R148). -/
theorem finishBytes_eq_report (r : Except OpError Bytes) :
    ∃ o, ∀ s : State, finishBytes r s = .next (s.report o) := by
  cases r with
  | ok S => exact ⟨.ok (.bytes S), fun _ => rfl⟩
  | error e => exact ⟨.error e, fun _ => rfl⟩

/-- No micro-step is one of the ten operations (R16). -/
theorem not_isOperation_of_mem_microSteps {i : Instr} (hm : i ∈ microSteps) : ¬ IsOperation i := by
  simp only [microSteps, List.mem_cons, List.not_mem_nil, or_false] at hm
  rcases hm with rfl | rfl | rfl | rfl <;> exact id

/-- A pure operation only reports, and its operands alone fix what (R33). -/
theorem exec_pure_eq_report {i : Instr} (hop : IsOperation i) (hpure : ¬ TouchesBuffer i) :
    ∃ o, ∀ s : State, exec i s = .next (s.report o) := by
  cases i with
  | reset => exact absurd (.inl rfl) hpure
  | feed chunk => exact absurd (.inr (.inl ⟨chunk, rfl⟩)) hpure
  | crc16 data length =>
    obtain rfl : length = none := hop
    exact ⟨.ok (.crc (crc16 data)), fun _ => rfl⟩
  | buildCmd inv start count => exact finishBytes_eq_report (buildCmd inv start count)
  | buildEnv dl cmd => exact finishBytes_eq_report (buildEnv dl cmd)
  | buildFrame ver fc env => exact finishBytes_eq_report (buildFrame ver fc env)
  | encodeReq ver dl inv start count fc => exact finishBytes_eq_report (encodeReq ver dl inv start count fc)
  | decodeHdr frame => exact ⟨.ok (.header (decodeHeader frame)), fun _ => rfl⟩
  | registerAt frame index => exact ⟨.ok (.register (registerAt frame index)), fun _ => rfl⟩
  | handleFrame frame => exact ⟨.ok (.metrics (metricsOf frame)), fun _ => rfl⟩
  | _ => exact hop.elim

/-- Settles O7: RESET and FEED fix the outcome and the new buffer from `PB`, every other operation only reports. -/
theorem operationsEndInOneOutcome : Obligations.OperationsEndInOneOutcome := by
  intro i S hop
  by_cases ht : TouchesBuffer i
  · rcases ht with rfl | ⟨chunk, rfl⟩ | hm
    · exact ⟨.ok .done, [], fun _ _ => rfl⟩
    · refine ⟨.ok (.frames (parse (S ++ chunk)).1), (parse (S ++ chunk)).2, ?_⟩
      rintro s rfl
      exact execFeed_eq chunk s
    · exact absurd hop (not_isOperation_of_mem_microSteps hm)
  · obtain ⟨o, ho⟩ := exec_pure_eq_report hop ht
    refine ⟨o, S, ?_⟩
    rintro s rfl
    exact ho s

end Sys2Proof.Machine

/-! PROOFS. RESET is idempotent; FEED appends every time, and FEED of nothing is a no-op after it (20_memory.md R33). -/

namespace Sys2Proof.Machine

/-- The loop ends only where it waits: one more evaluation of what FEED leaves picks P_WAIT (R95, R111). -/
theorem selectMicroStep_parse_snd (pb : Bytes) : selectMicroStep (parse pb).2 = .wait := by
  by_cases h : selectMicroStep pb = .wait
  · rw [parse_wait h]
    exact h
  · rw [parse_step h]
    exact selectMicroStep_parse_snd _
termination_by pb.length
decreasing_by exact leaves_shorter h

/-- RESET empties the buffer and reports (R165). -/
theorem exec_reset_next {s t : State} : exec .reset s = .next t ↔ t = (s.setPb []).report (.ok .done) :=
  finish_next

/-- FEED leaves what the loop leaves of the buffer with the chunk appended, and reports the loop's frames (R95, R96). -/
theorem exec_feed_next {chunk : Bytes} {s t : State} : exec (.feed chunk) s = .next t ↔
    t = (s.setPb (parse (s.pb ++ chunk)).2).report (.ok (.frames (parse (s.pb ++ chunk)).1)) :=
  finish_next

/-- Where the loop waits at once, FEED only appends (R101). -/
theorem exec_feed_of_wait {chunk : Bytes} {s : State} (h : selectMicroStep (s.pb ++ chunk) = .wait) :
    exec (.feed chunk) s = .next ((s.setPb (s.pb ++ chunk)).report (.ok (.frames []))) := by
  rw [exec_feed_next, parse_wait h]

/-- The six bytes of a header that declares the greatest length, 65535 (R14). -/
def longestHeader : Bytes := [0xA1, 0x1A, 0x00, 0x00, 0xFF, 0xFF]

/-- A frame behind this header is complete with 65541 bytes (R48). -/
theorem total_longestHeader_append (tail : Bytes) : total (longestHeader ++ tail) = 65541 := by
  rw [total, declared, memRead16_append_left (by decide)]
  rfl

/-- Behind this header 65534 bytes leave the parser waiting (R101). -/
theorem selectMicroStep_longestHeader_append {tail : Bytes} (h : tail.length ≤ 65534) :
    selectMicroStep (longestHeader ++ tail) = .wait := by
  have hmagic : magic (longestHeader ++ tail) = true := magic_iff.2 ⟨rfl, rfl⟩
  have hlength : (longestHeader ++ tail).length = 6 + tail.length := List.length_append
  rcases selectMicroStep_cases (longestHeader ++ tail)
    with ⟨hwait, _⟩ | ⟨_, _, _, hno, _⟩ | ⟨_, _, hno, _⟩ | ⟨_, _, _, hcomplete⟩
  · exact hwait
  · exact absurd hmagic (ne_true_of_eq_false hno)
  · exact absurd hmagic (ne_true_of_eq_false hno)
  · rw [total_longestHeader_append] at hcomplete
    omega

/-- After any FEED or RESET the buffer waits (R33, R111). -/
theorem selectMicroStep_after_feed_or_reset {s t : State}
    (h : (∃ c, exec (.feed c) s = .next t) ∨ exec .reset s = .next t) : selectMicroStep t.pb = .wait := by
  rcases h with ⟨c, hfeed⟩ | hreset
  · rw [exec_feed_next.1 hfeed]
    exact selectMicroStep_parse_snd _
  · rw [exec_reset_next.1 hreset]
    rfl

/-- Settles O11: a header that declares 65535 holds any two chunks of the bound; every FEED ends where the loop waits. -/
theorem purityAndIdempotency : Obligations.PurityAndIdempotency := by
  refine ⟨fun i => exec_pure_eq_report, fun s t h => ?reset, fun c s => ?append, fun c _ hc => ?twice, fun s t h => ?noop⟩
  case reset =>
    rw [exec_reset_next.1 h]
    rfl
  case append =>
    change execFeed c s = execFeed [] { s with pb := s.pb ++ c }
    rw [execFeed_eq, execFeed_eq, List.append_nil]
    rfl
  case twice =>
    have hone := selectMicroStep_longestHeader_append (tail := c) (by omega)
    have htwo := selectMicroStep_longestHeader_append (tail := c ++ c) (by rw [List.length_append]; omega)
    rw [← List.append_assoc] at htwo
    exact ⟨State.reset.setPb longestHeader, _, _,
      exec_feed_of_wait hone, exec_feed_of_wait htwo, rfl, rfl⟩
  case noop =>
    have hwait := selectMicroStep_after_feed_or_reset h
    rw [← List.append_nil t.pb] at hwait
    rw [exec_feed_of_wait hwait, List.append_nil]
    rfl

end Sys2Proof.Machine

/-! PROOFS. u16 fields inside a sequence, and the layouts that the single encoders give (30_encoding.md R41 to R43). -/

namespace Sys2Proof.Machine

open Sys2Proof.Safety

/-- The machine's byte order in the spec's own arithmetic (R5, R27). -/
theorem le16_eq (v : U16) : le16 v = [lowByte v.toNat, highByte v.toNat] := by
  have hlow : lo8 v = lowByte v.toNat := BitVec.eq_of_toNat_eq (lo8_toNat v)
  have hhigh : hi8 v = highByte v.toNat := by
    refine BitVec.eq_of_toNat_eq ?_
    rw [hi8_toNat, highByte, BitVec.toNat_ofNat]
    omega
  rw [le16, hlow, hhigh]

/-- A u16 field stands where the bytes before it end. -/
theorem holdsAt_append_le16 {S : Bytes} {a : Nat} (h : S.length = a) (v : U16) :
    HoldsAt (S ++ le16 v) a v.toNat := by
  subst h
  constructor <;> simp [le16_eq]

/-- A length field holds every length that fits 16 bits (R42, R43). -/
theorem holdsAt_append_le16_ofNat {S : Bytes} {a n : Nat} (h : S.length = a) (hn : n < 65536) :
    HoldsAt (S ++ le16 (BitVec.ofNat 16 n)) a n := by
  have hfield := holdsAt_append_le16 h (BitVec.ofNat 16 n)
  rwa [BitVec.toNat_ofNat, Nat.mod_eq_of_lt hn] at hfield

/-- What follows a field does not move it. -/
theorem holdsAt_append_left {S : Bytes} {a n : Nat} (h : HoldsAt S a n) (T : Bytes) : HoldsAt (S ++ T) a n := by
  obtain ⟨hlow, hhigh⟩ := h
  obtain ⟨hinside, -⟩ := List.getElem?_eq_some_iff.1 hhigh
  constructor
  · rw [List.getElem?_append_left (by omega), hlow]
  · rw [List.getElem?_append_left hinside, hhigh]

/-- A field of 16 bits reads back the number it holds (R27). -/
theorem leAt_of_holdsAt {S : Bytes} {a n : Nat} (h : HoldsAt S a n) (hn : n < 65536) : leAt S a = n := by
  obtain ⟨hlow, hhigh⟩ := h
  simp only [leAt, List.getD_eq_getElem?_getD, hlow, hhigh, Option.getD_some, lowByte, highByte, BitVec.toNat_ofNat]
  omega

/-! The command (R41). -/

theorem cmdBody_length {inv : Bytes} (h : inv.length = 10) (start count : U16) : (cmdBody inv start count).length = 16 := by
  simp [cmdBody, le16_length, h]

theorem cmdBody_serial {inv : Bytes} (h : inv.length = 10) (start count : U16) (T : Bytes) :
    ((cmdBody inv start count ++ T).drop 2).take 10 = inv := by
  simp [cmdBody, ← h]

theorem cmdBody_holds_start {inv : Bytes} (h : inv.length = 10) (start count : U16) :
    HoldsAt (cmdBody inv start count) 12 start.toNat :=
  holdsAt_append_left (holdsAt_append_le16 (by simp [h]) start) (le16 count)

theorem cmdBody_holds_count {inv : Bytes} (h : inv.length = 10) (start count : U16) :
    HoldsAt (cmdBody inv start count) 14 count.toNat :=
  holdsAt_append_le16 (by simp [le16_length, h]) count

/-- Settles O19: the command is its 16-byte body and the body's checksum; a serial of another length raises. -/
theorem buildCmdLaysOutTheCommand : Obligations.BuildCmdLaysOutTheCommand := by
  intro inv start count s
  refine ⟨fun h => ?layout, fun h => ?error⟩
  case layout =>
    have hbody := cmdBody_length h start count
    refine ⟨_, crc16 (cmdBody inv start count), congrArg (finishBytes · s) (buildCmd_of_length h start count),
      ?length, rfl, rfl, cmdBody_serial h start count _, holdsAt_append_left (cmdBody_holds_start h start count) _,
      holdsAt_append_left (cmdBody_holds_count h start count) _, ?covered, holdsAt_append_le16 hbody _⟩
    case length => rw [List.length_append, hbody, le16_length]
    case covered =>
      rw [List.take_left' hbody]
      rfl
  case error => exact congrArg (finishBytes · s) (buildCmd_of_ne h start count)

/-! The envelope (R42). -/

/-- Settles O20: serial, length field and payload, each where the part before it ends. -/
theorem buildEnvLaysOutTheEnvelope : Obligations.BuildEnvLaysOutTheEnvelope := by
  intro dl cmd s hdl hcmd
  have hheader : (dl ++ le16 (BitVec.ofNat 16 cmd.length)).length = 12 := by rw [List.length_append, hdl, le16_length]
  have hfield : HoldsAt (dl ++ le16 (BitVec.ofNat 16 cmd.length) ++ cmd) 10 cmd.length :=
    holdsAt_append_left (holdsAt_append_le16_ofNat hdl (by omega)) cmd
  refine ⟨_, congrArg (finishBytes · s) (buildEnv_of_lengths hdl hcmd),
    ?length, ?serial, hfield, List.drop_left' hheader, ?command⟩
  case length => rw [List.length_append, hheader]
  case serial =>
    rw [List.append_assoc]
    exact List.take_left' hdl
  case command =>
    intro h18
    rwa [h18] at hfield ⊢

/-! The frame (R43). -/

/-- The eight bytes before a payload of `n` bytes. -/
def frameHeader (ver : U16) (fc : Byte) (n : Nat) : Bytes :=
  [0xA1#8, 0x1A#8] ++ le16 ver ++ le16 (BitVec.ofNat 16 (n + 2)) ++ [1#8, fc]

theorem buildFrame_eq_header_append {payload : Bytes} (h : payload.length ≤ 65533) (ver : U16) (fc : Byte) :
    buildFrame ver fc payload = .ok (frameHeader ver fc payload.length ++ payload) :=
  buildFrame_of_length h ver fc

theorem frameHeader_length (ver : U16) (fc : Byte) (n : Nat) : (frameHeader ver fc n).length = 8 := rfl

theorem frameHeader_holds_version (ver : U16) (fc : Byte) (n : Nat) : HoldsAt (frameHeader ver fc n) 2 ver.toNat :=
  holdsAt_append_left (holdsAt_append_left (holdsAt_append_le16 rfl ver) _) _

theorem frameHeader_holds_length {n : Nat} (h : n ≤ 65533) (ver : U16) (fc : Byte) :
    HoldsAt (frameHeader ver fc n) 4 (n + 2) :=
  holdsAt_append_left (holdsAt_append_le16_ofNat rfl (by omega)) _

/-- Settles O22: the 8-byte header, then the payload; the length field reads back as the payload's length + 2. -/
theorem buildFrameLaysOutTheFrame : Obligations.BuildFrameLaysOutTheFrame := by
  intro ver fc payload s h
  have hlength : (frameHeader ver fc payload.length ++ payload).length = 8 + payload.length := List.length_append
  have hdeclared := holdsAt_append_left (frameHeader_holds_length h ver fc) payload
  refine ⟨_, congrArg (finishBytes · s) (buildFrame_eq_header_append h ver fc), ⟨rfl, rfl⟩,
    holdsAt_append_left (frameHeader_holds_version ver fc _) payload, hdeclared, rfl, rfl,
    List.drop_left' (frameHeader_length ver fc _), hlength, ?total⟩
  rw [hlength, leAt_of_holdsAt hdeclared (by omega)]
  omega

end Sys2Proof.Machine

/-! PROOFS. The checksum on numbers: bit rounds, bytes, sequences (40_checksum.md R65 to R68). -/

namespace Sys2Proof.Machine

open Sys2Proof.Safety

/-- The machine tests bit 0 before the shift: it asks whether the number is odd (R68). -/
theorem crcRound_toNat (acc : U16) : (crcRound acc).toNat = bitRound acc.toNat := by
  have hodd : acc.getLsbD 0 = decide (acc.toNat % 2 = 1) := Nat.testBit_zero _
  have hhalf : (acc >>> 1).toNat = acc.toNat / 2 := by rw [BitVec.toNat_ushiftRight, Nat.shiftRight_one]
  simp only [crcRound, bitRound, hodd, decide_eq_true_eq]
  split
  case isTrue =>
    rw [BitVec.toNat_xor, hhalf]
    rfl
  case isFalse => exact hhalf

theorem crcRounds_toNat (n : Nat) (acc : U16) : (crcRounds n acc).toNat = bitRound^[n] acc.toNat := by
  induction n generalizing acc with
  | zero => rfl
  | succ n ih => rw [crcRounds, ih, crcRound_toNat, Function.iterate_succ_apply]

/-- A byte is zero-extended, XORed in and followed by 8 bit rounds (R67). -/
theorem crcByte_toNat (acc : U16) (b : Byte) : (crcByte acc b).toNat = bitRound^[8] (acc.toNat ^^^ b.toNat) := by
  rw [crcByte, crcRounds_toNat, BitVec.toNat_xor, BitVec.toNat_setWidth_of_le (by decide)]

/-- The last byte is taken last (R67). -/
theorem crc16_append_singleton (data : Bytes) (b : Byte) : crc16 (data ++ [b]) = crcByte (crc16 data) b :=
  List.foldl_concat ..

/-- A bit round stays within 16 bits, since the machine's is one (R68). -/
theorem bitRound_lt {x : Nat} (h : x < 65536) : bitRound x < 65536 := by
  have hround := crcRound_toNat (BitVec.ofNat 16 x)
  rw [BitVec.toNat_ofNat, Nat.mod_eq_of_lt h] at hround
  rw [← hround]
  exact (crcRound _).isLt

/-- The plain form reports the checksum of all its bytes (R65). -/
theorem exec_crc16_plain (data : Bytes) (s : State) :
    exec (.crc16 data none) s = .next (s.report (.ok (.crc (crc16 data)))) := rfl

/-- Settles O16: the accumulator is the machine's own checksum, read as a number. -/
theorem crc16FollowsTheBitRounds : Obligations.Crc16FollowsTheBitRounds := by
  refine ⟨fun data => (crc16 data).toNat, rfl, fun data b => ?byte, fun data => (crc16 data).isLt,
    fun _ => bitRound_lt, rfl, fun data s => ?result⟩
  case byte => exact (congrArg BitVec.toNat (crc16_append_singleton data b)).trans (crcByte_toNat _ b)
  case result =>
    rw [BitVec.ofNat_toNat, BitVec.setWidth_eq]
    exact exec_crc16_plain data s

end Sys2Proof.Machine

/-! PROOFS. What FEED does where the appended buffer waits, skips or drops all, and that it returns frames whatever comes (42_stream_parser.md R101 to R103, R113). -/

namespace Sys2Proof.Machine

open Sys2Proof.Safety

/-! The conditions of the micro-steps, in the terms of the statements. -/

/-- `total(PB)` in the spec's own arithmetic (R14, R27). -/
theorem total_eq_leAt_add (pb : Bytes) : total pb = leAt pb 4 + 6 :=
  congrArg (· + 6) (memRead16_toNat pb 4)

theorem magic_eq_false_iff {pb : Bytes} : magic pb = false ↔ ¬ StartsWithMagic pb := by
  rw [← Bool.not_eq_true, magic_iff]

/-- The machine's flag and the statements' condition agree: the latter's third case need not ask for 6 bytes, since a shorter buffer is in its second (R15). -/
theorem quiescent_iff {pb : Bytes} : quiescent pb = true ↔ Quiescent pb := by
  simp only [quiescent, Bool.or_eq_true, Bool.and_eq_true, decide_eq_true_eq, magic_iff, total_eq_leAt_add]
  constructor
  · rintro ((hshort | hheader) | ⟨⟨hmagic, -⟩, hbody⟩)
    · exact .inl hshort
    · exact .inr (.inl hheader)
    · exact .inr (.inr ⟨hmagic, hbody⟩)
  · rintro (hshort | hheader | ⟨hmagic, hbody⟩)
    · exact .inl (.inl hshort)
    · exact .inl (.inr hheader)
    · rcases Nat.lt_or_ge pb.length 6 with h6 | h6
      · exact .inl (.inr ⟨hmagic, h6⟩)
      · exact .inr ⟨⟨hmagic, h6⟩, hbody⟩

/-- P_WAIT is picked exactly where nothing more can be taken (R15, R101). -/
theorem selectMicroStep_eq_wait_iff {pb : Bytes} : selectMicroStep pb = .wait ↔ Quiescent pb := by
  rw [← quiescent_iff]
  rcases selectMicroStep_cases pb
    with ⟨hsel, hquiet⟩ | ⟨k, hsel, hlen, hmagic, _⟩ | ⟨hsel, hlen, hmagic, _⟩ | ⟨hsel, hmagic, hlen, htotal⟩
  · exact iff_of_true hsel hquiet
  · exact iff_of_false (by simp [hsel]) (by simp [quiescent, hmagic]; omega)
  · exact iff_of_false (by simp [hsel]) (by simp [quiescent, hmagic]; omega)
  · exact iff_of_false (by simp [hsel]) (by simp [quiescent, hlen, htotal]; omega)

/-- Without the magic, the search for `A1` behind the first byte decides (R102, R103). -/
theorem selectMicroStep_of_not_magic {pb : Bytes} (hlen : 2 ≤ pb.length) (hmagic : ¬ StartsWithMagic pb) :
    selectMicroStep pb = (findFrom pb Config.magic0 1).elim .dropAll .skip := by
  simp only [selectMicroStep, parserState, magic_eq_false_iff.2 hmagic, Bool.false_eq_true, if_false, Nat.not_lt.2 hlen]
  cases findFrom pb Config.magic0 1 <;> rfl

/-! FEED, by the micro-step that the appended buffer selects. -/

/-- Where the loop skips, FEED of nothing goes on with the rest (R102). -/
theorem exec_feed_of_skip {chunk : Bytes} {s : State} {k : Nat} (h : selectMicroStep (s.pb ++ chunk) = .skip k) :
    exec (.feed chunk) s = exec (.feed []) (s.setPb ((s.pb ++ chunk).drop k)) := by
  have hrest := exec_feed_next (chunk := []) (s := s.setPb ((s.pb ++ chunk).drop k)) |>.2 rfl
  rw [hrest, exec_feed_next, parse_skip h, State.setPb_pb, List.append_nil]
  rfl

/-- Where the loop drops all, FEED empties the buffer and emits nothing (R103). -/
theorem exec_feed_of_dropAll {chunk : Bytes} {s : State} (h : selectMicroStep (s.pb ++ chunk) = .dropAll) :
    exec (.feed chunk) s = .next ((s.setPb []).report (.ok (.frames []))) := by
  rw [exec_feed_next, parse_dropAll h]

/-- Settles O26: a quiescent buffer selects P_WAIT. -/
theorem waitingKeepsTheBuffer : Obligations.WaitingKeepsTheBuffer :=
  fun _ _ hquiet => exec_feed_of_wait (selectMicroStep_eq_wait_iff.2 hquiet)

/-- Settles O27: the least candidate is what the search finds. -/
theorem skippingResyncsToTheNextCandidate : Obligations.SkippingResyncsToTheNextCandidate := by
  rintro s chunk S k rfl hlen hmagic hk hcandidate hleast
  have hfind : findFrom (s.pb ++ chunk) Config.magic0 1 = some k := findFrom_eq_some.2 ⟨hk, hcandidate, hleast⟩
  refine exec_feed_of_skip ?_
  rw [selectMicroStep_of_not_magic hlen hmagic, hfind]
  rfl

/-- Settles O28: without a candidate the search finds none. -/
theorem droppingAllEmptiesTheBuffer : Obligations.DroppingAllEmptiesTheBuffer := by
  rintro s chunk S rfl hlen hmagic hnone
  have hfind : findFrom (s.pb ++ chunk) Config.magic0 1 = none := findFrom_eq_none.2 hnone
  refine exec_feed_of_dropAll ?_
  rw [selectMicroStep_of_not_magic hlen hmagic, hfind]
  rfl

/-! What a request other than FEED and RESET does to a waiting buffer. -/

/-- Off the buffer a request only reports, or is refused, as its operands alone fix (R33, R53, R71). -/
theorem exec_offBuffer_cases {i : Instr} (hoff : ¬ TouchesBuffer i) :
    (∃ o, ∀ s, exec i s = .next (s.report o)) ∨ ∃ r, ∀ s, exec i s = .refused r := by
  by_cases hop : IsOperation i
  · exact .inl (exec_pure_eq_report hop hoff)
  cases i with
  | crc16 data length =>
    rcases checksumRange_cases data length with ⟨rfl, _⟩ | ⟨n, rfl, _, hrange⟩ | ⟨n, rfl, _, hrange⟩
    · exact absurd rfl hop
    · exact .inl ⟨.ok (.crc (crc16 (data.take n))), fun s => by simp [exec, execCrc16, hrange, finish]⟩
    · exact .inr ⟨.checksumRangeBeyondBytes n data.length, fun s => by simp [exec, execCrc16, hrange]⟩
  | opselReserved code => exact .inr ⟨.reservedOpsel code, fun _ => rfl⟩
  | cmd S => exact .inl ⟨.ok (.cmdFields (readCmd S)), fun _ => rfl⟩
  | env S => exact .inl ⟨.ok (.envFields (readEnv S)), fun _ => rfl⟩
  | frameOut S => exact .inl ⟨.ok (.frameOutFields (readFrameOut S)), fun _ => rfl⟩
  | frameIn S => exact .inl ⟨.ok (.frameInFields (readFrameIn S)), fun _ => rfl⟩
  | request S => exact .inl ⟨.ok (.requestFields (readRequest S)), fun _ => rfl⟩
  | response S => exact .inl ⟨.ok (.responseFields (readResponse S)), fun _ => rfl⟩
  | pWait | pSkip | pDropAll | pEmit => exact absurd (.inr (.inr (by simp [microSteps]))) hoff
  | _ => exact absurd trivial hop

/-- A request off the buffer keeps it (R154). -/
theorem exec_offBuffer_pb {i : Instr} {s t : State} (hoff : ¬ TouchesBuffer i) (h : exec i s = .next t) : t.pb = s.pb := by
  rcases exec_offBuffer_cases hoff with ⟨o, ho⟩ | ⟨r, hr⟩
  · rw [ho] at h
    cases h
    rfl
  · rw [hr] at h
    cases h

/-- A micro-step request that runs is the one that the buffer selects (R100; log entry 6). -/
theorem runMicroStep_of_exec_next {i : Instr} {s t : State} (hm : i ∈ microSteps) (h : exec i s = .next t) :
    runMicroStep (selectMicroStep s.pb) s = .next t := by
  simp only [microSteps, List.mem_cons, List.not_mem_nil, or_false] at hm
  rcases hm with rfl | rfl | rfl | rfl
  all_goals
    simp only [exec, execPWait, execPSkip, execPDropAll, execPEmit] at h
    split at h
    · rwa [‹selectMicroStep s.pb = _›]
    · cases h

/-- Where the loop waits, no micro-step request changes the buffer (R101). -/
theorem exec_microStep_pb_of_wait {i : Instr} {s t : State} (hm : i ∈ microSteps)
    (hwait : selectMicroStep s.pb = .wait) (h : exec i s = .next t) : t.pb = s.pb := by
  have hrun := runMicroStep_of_exec_next hm h
  rw [hwait, runMicroStep_eq] at hrun
  cases hrun
  rfl

/-- Where the loop waits, FEED of nothing keeps the buffer (R101). -/
theorem exec_feed_nil_pb_of_wait {s t : State} (hwait : selectMicroStep s.pb = .wait)
    (h : exec (.feed []) s = .next t) : t.pb = s.pb := by
  rw [exec_feed_next.1 h, List.append_nil, parse_wait hwait]
  rfl

/-- Settles O34: FEED always ends in frames; off the buffer, in a micro-step and in a FEED of nothing a waiting buffer stays. -/
theorem feedAlwaysReturnsFrames : Obligations.FeedAlwaysReturnsFrames := by
  refine ⟨fun chunk s => ⟨_, _, exec_feed_next.2 rfl⟩, fun i s t hquiet h hchanged => ?_⟩
  have hwait := selectMicroStep_eq_wait_iff.2 hquiet
  by_cases htouch : TouchesBuffer i
  · rcases htouch with hreset | ⟨chunk, rfl⟩ | hm
    · exact .inl hreset
    · refine .inr ⟨chunk, ?_, rfl⟩
      rintro rfl
      exact hchanged (exec_feed_nil_pb_of_wait hwait h)
    · exact absurd (exec_microStep_pb_of_wait hm hwait h) hchanged
  · exact absurd (exec_offBuffer_pb htouch h) hchanged

end Sys2Proof.Machine

/-! PROOFS. HANDLE_FRAME, by the function code it reads (43_dispatch_decode.md R131, R137). -/

namespace Sys2Proof.Machine

/-- A byte that is there is what the read gives (R7). -/
theorem memRead8_of_getElem? {S : Bytes} {a : Nat} {b : Byte} (h : S[a]? = some b) : memRead8 S a = b := by
  rw [memRead8, List.getD_eq_getElem?_getD, h, Option.getD_some]

/-- Where byte 7 is there, it alone decides whether there are metrics (R131). -/
theorem metricsOf_of_tcpFc {F : Bytes} {fc : Byte} (h : F[7]? = some fc) :
    metricsOf F = if fc = Config.respTcpFc then
      some { pvFlowWatts := pvFlow F, consumptionWatts := consumption F } else none := by
  obtain ⟨hheader, -⟩ := List.getElem?_eq_some_iff.1 h
  rw [metricsOf, if_neg (Nat.not_lt.2 hheader), memRead8_of_getElem? h]

/-- HANDLE_FRAME only reports its metrics (R131). -/
theorem exec_handleFrame (F : Bytes) (s : State) :
    exec (.handleFrame F) s = .next (s.report (.ok (.metrics (metricsOf F)))) := rfl

/-- Settles O48: a function code other than a response's has no metrics, and the report is all that HANDLE_FRAME does. -/
theorem otherFunctionCodesGiveNone : Obligations.OtherFunctionCodesGiveNone := by
  intro F fc s hfc hother
  have hnone : metricsOf F = none := (metricsOf_of_tcpFc hfc).trans (if_neg hother)
  rw [exec_handleFrame, hnone]
  rfl

end Sys2Proof.Machine

/-! PROOFS. Decoder and encoder are inverse to each other up to padding: each operand reader accepts exactly what its writer writes (30_encoding.md R52; log entry 1). -/

namespace Sys2Proof

open Machine (le16 memRead16)

/-- Reading goes on exactly with what the first reader gave. -/
theorem andThen_eq_ok {α β : Type} {t : Taken α} {k : α → Bytes → Except Reject β} {b : β} :
    andThen t k = .ok b ↔ ∃ a rest, t = .ok (a, rest) ∧ k a rest = .ok b := by
  cases t with
  | error e => simp [andThen]
  | ok p =>
    obtain ⟨a, rest⟩ := p
    simp [andThen]

/-! The readers of single operands. -/

/-- Two bytes are the field of the number they make (R27). -/
theorem le16_memRead16_pair (lo hi : Byte) : le16 (memRead16 [lo, hi] 0) = [lo, hi] := by
  have hread : (memRead16 [lo, hi] 0).toNat = lo.toNat + 256 * hi.toNat := Machine.memRead16_toNat [lo, hi] 0
  have hlo : Machine.lo8 (memRead16 [lo, hi] 0) = lo := by
    refine BitVec.eq_of_toNat_eq ?_
    rw [Machine.lo8_toNat, hread]
    omega
  have hhi : Machine.hi8 (memRead16 [lo, hi] 0) = hi := by
    refine BitVec.eq_of_toNat_eq ?_
    rw [Machine.hi8_toNat, hread]
    omega
  rw [le16, hlo, hhi]

theorem takeByte_eq_ok {bs rest : Bytes} {b : Byte} : takeByte bs = .ok (b, rest) ↔ bs = b :: rest := by
  cases bs <;> simp [takeByte]

theorem takeU16_eq_ok {bs rest : Bytes} {v : U16} : takeU16 bs = .ok (v, rest) ↔ bs = le16 v ++ rest := by
  constructor
  · match bs with
    | [] | [_] => simp [takeU16]
    | lo :: hi :: tail =>
      rintro ⟨⟩
      rw [le16_memRead16_pair]
      rfl
  · rintro rfl
    exact takeU16_le16 v rest

theorem takeSeq_eq_ok {bs rest S : Bytes} : takeSeq bs = .ok (S, rest) ↔ bs = encodeSeq S ++ rest := by
  constructor
  · fun_induction takeSeq bs generalizing S with
    | case1 | case3 | case4 | case7 => simp
    | case2 => rintro ⟨⟩; rfl
    | case5 => rintro ⟨⟩; rfl
    | case6 f tail hzero ih =>
      intro h
      obtain ⟨T, _, htail, ⟨⟩⟩ := andThen_eq_ok.1 h
      rw [ih htail]
      rfl
  · rintro rfl
    exact takeSeq_encodeSeq S rest

/-- The fuel only has to reach the number. -/
theorem natGroups_fuel {m n k : Nat} (hm : k ≤ m) (hn : k ≤ n) : natGroups m k = natGroups n k := by
  induction m generalizing n k with
  | zero =>
    obtain rfl : k = 0 := by omega
    cases n <;> rfl
  | succ m ih =>
    cases n with
    | zero =>
      obtain rfl : k = 0 := by omega
      rfl
    | succ n =>
      simp only [natGroups]
      rw [ih (k := k / 128) (n := n) (by omega) (by omega)]

theorem encodeNat_of_lt {n : Nat} (h : n < 128) : encodeNat n = [BitVec.ofNat 8 n] := by
  cases n with
  | zero => rfl
  | succ n => rw [encodeNat, natGroups, if_pos h]

theorem encodeNat_of_ge {n : Nat} (h : 128 ≤ n) :
    encodeNat n = BitVec.ofNat 8 (n % 128 + 128) :: encodeNat (n / 128) := by
  obtain ⟨fuel, rfl⟩ : ∃ fuel, n = fuel + 1 := ⟨n - 1, by omega⟩
  rw [encodeNat, natGroups, if_neg (by omega), natGroups_fuel (by omega) le_rfl]
  rfl

theorem takeNat_eq_ok {bs rest : Bytes} {n : Nat} : takeNat bs = .ok (n, rest) ↔ bs = encodeNat n ++ rest := by
  constructor
  · fun_induction takeNat bs generalizing n with
    | case1 => simp
    | case2 g tail hlast =>
      rintro ⟨⟩
      rw [encodeNat_of_lt hlast, BitVec.ofNat_toNat, BitVec.setWidth_eq]
      rfl
    | case3 g tail hmore ih =>
      intro h
      obtain ⟨high, _, htail, hjoin⟩ := andThen_eq_ok.1 h
      split at hjoin
      · cases hjoin
      · cases hjoin
        have hg := g.isLt
        have hdiv : (g.toNat - 128 + 128 * high) / 128 = high := by omega
        have hmod : (g.toNat - 128 + 128 * high) % 128 + 128 = g.toNat := by omega
        rw [encodeNat_of_ge (by omega), hdiv, hmod, BitVec.ofNat_toNat, BitVec.setWidth_eq, ih htail]
        rfl
  · rintro rfl
    exact takeNat_encodeNat n rest

theorem takeOptNat_eq_ok {bs rest : Bytes} {o : Option Nat} :
    takeOptNat bs = .ok (o, rest) ↔ bs = encodeOptNat o ++ rest := by
  constructor
  · fun_cases takeOptNat bs with
    | case1 | case4 => simp
    | case2 => rintro ⟨⟩; rfl
    | case3 =>
      intro h
      obtain ⟨n, _, hn, ⟨⟩⟩ := andThen_eq_ok.1 h
      rw [takeNat_eq_ok.1 hn]
      rfl
  · rintro rfl
    exact takeOptNat_encodeOptNat o rest

/-! The readers of operand lists. -/

theorem takeSeqInstr_eq_ok {mk : Bytes → Instr} {bs rest : Bytes} {i : Instr} :
    takeSeqInstr mk bs = .ok (i, rest) ↔ ∃ S, bs = encodeSeq S ++ rest ∧ mk S = i := by
  simp [takeSeqInstr, andThen_eq_ok, takeSeq_eq_ok]

theorem takeCrc16_eq_ok {bs rest : Bytes} {i : Instr} :
    takeCrc16 bs = .ok (i, rest) ↔
      ∃ data len, bs = encodeSeq data ++ (encodeOptNat len ++ rest) ∧ .crc16 data len = i := by
  simp [takeCrc16, andThen_eq_ok, takeSeq_eq_ok, takeOptNat_eq_ok]

theorem takeBuildCmd_eq_ok {bs rest : Bytes} {i : Instr} :
    takeBuildCmd bs = .ok (i, rest) ↔
      ∃ inv start count, bs = encodeSeq inv ++ (le16 start ++ (le16 count ++ rest)) ∧ .buildCmd inv start count = i := by
  simp [takeBuildCmd, andThen_eq_ok, takeSeq_eq_ok, takeU16_eq_ok]

theorem takeBuildEnv_eq_ok {bs rest : Bytes} {i : Instr} :
    takeBuildEnv bs = .ok (i, rest) ↔
      ∃ dl cmd, bs = encodeSeq dl ++ (encodeSeq cmd ++ rest) ∧ .buildEnv dl cmd = i := by
  simp [takeBuildEnv, andThen_eq_ok, takeSeq_eq_ok]

theorem takeBuildFrame_eq_ok {bs rest : Bytes} {i : Instr} :
    takeBuildFrame bs = .ok (i, rest) ↔
      ∃ ver fc env, bs = le16 ver ++ (fc :: (encodeSeq env ++ rest)) ∧ .buildFrame ver fc env = i := by
  simp [takeBuildFrame, andThen_eq_ok, takeU16_eq_ok, takeByte_eq_ok, takeSeq_eq_ok]

theorem takeEncodeReq_eq_ok {bs rest : Bytes} {i : Instr} :
    takeEncodeReq bs = .ok (i, rest) ↔ ∃ ver dl inv start count fc,
      bs = le16 ver ++ (encodeSeq dl ++ (encodeSeq inv ++ (le16 start ++ (le16 count ++ (fc :: rest))))) ∧
      .encodeReq ver dl inv start count fc = i := by
  simp [takeEncodeReq, andThen_eq_ok, takeU16_eq_ok, takeByte_eq_ok, takeSeq_eq_ok]

theorem takeRegisterAt_eq_ok {bs rest : Bytes} {i : Instr} :
    takeRegisterAt bs = .ok (i, rest) ↔
      ∃ frame index, bs = encodeSeq frame ++ (encodeNat index ++ rest) ∧ .registerAt frame index = i := by
  simp [takeRegisterAt, andThen_eq_ok, takeSeq_eq_ok, takeNat_eq_ok]

/-! The whole request. -/

/-- The reserved codes, one by one (R52). -/
theorem reservedCode_cases {code : BitVec 4} (h : 10 ≤ code.toNat) :
    code = 0xA#4 ∨ code = 0xB#4 ∨ code = 0xC#4 ∨ code = 0xD#4 ∨ code = 0xE#4 ∨ code = 0xF#4 := by
  revert code
  decide

/-- Behind the header byte of its row every well-formed request's operands are read back. -/
theorem takeOperands_encodeOperands {i : Instr} (hwf : i.wf = true) (rest : Bytes) :
    takeOperands (headerOf i) (encodeOperands i ++ rest) = .ok (i, rest) := by
  cases i with
  | crc16 data len => exact takeCrc16_eq_ok.2 ⟨data, len, by simp [encodeOperands], rfl⟩
  | buildCmd inv start count => exact takeBuildCmd_eq_ok.2 ⟨inv, start, count, by simp [encodeOperands], rfl⟩
  | buildEnv dl cmd => exact takeBuildEnv_eq_ok.2 ⟨dl, cmd, by simp [encodeOperands], rfl⟩
  | buildFrame ver fc env => exact takeBuildFrame_eq_ok.2 ⟨ver, fc, env, by simp [encodeOperands], rfl⟩
  | encodeReq ver dl inv start count fc =>
    exact takeEncodeReq_eq_ok.2 ⟨ver, dl, inv, start, count, fc, by simp [encodeOperands], rfl⟩
  | registerAt frame index => exact takeRegisterAt_eq_ok.2 ⟨frame, index, by simp [encodeOperands], rfl⟩
  | opselReserved code =>
    rcases reservedCode_cases (of_decide_eq_true hwf) with rfl | rfl | rfl | rfl | rfl | rfl <;> rfl
  | feed S | decodeHdr S | handleFrame S | cmd S | env S | frameOut S | frameIn S | request S | response S =>
    exact takeSeqInstr_eq_ok.2 ⟨S, rfl, rfl⟩
  | reset | pWait | pSkip | pDropAll | pEmit => rfl

/-- What is read behind a header byte is a well-formed request with that header, spelt as the encoder spells it. -/
theorem of_takeOperands_eq_ok {header : Byte} {bs rest : Bytes} {i : Instr}
    (h : takeOperands header bs = .ok (i, rest)) :
    i.wf = true ∧ header = headerOf i ∧ bs = encodeOperands i ++ rest := by
  rw [takeOperands] at h
  split at h
  case h_2 hcode =>
    obtain ⟨data, len, rfl, rfl⟩ := takeCrc16_eq_ok.1 h
    exact ⟨rfl, BitVec.eq_of_toNat_eq hcode, by simp [encodeOperands]⟩
  case h_3 hcode =>
    obtain ⟨inv, start, count, rfl, rfl⟩ := takeBuildCmd_eq_ok.1 h
    exact ⟨rfl, BitVec.eq_of_toNat_eq hcode, by simp [encodeOperands]⟩
  case h_4 hcode =>
    obtain ⟨dl, cmd, rfl, rfl⟩ := takeBuildEnv_eq_ok.1 h
    exact ⟨rfl, BitVec.eq_of_toNat_eq hcode, by simp [encodeOperands]⟩
  case h_5 hcode =>
    obtain ⟨ver, fc, env, rfl, rfl⟩ := takeBuildFrame_eq_ok.1 h
    exact ⟨rfl, BitVec.eq_of_toNat_eq hcode, by simp [encodeOperands]⟩
  case h_6 hcode =>
    obtain ⟨ver, dl, inv, start, count, fc, rfl, rfl⟩ := takeEncodeReq_eq_ok.1 h
    exact ⟨rfl, BitVec.eq_of_toNat_eq hcode, by simp [encodeOperands]⟩
  case h_9 hcode =>
    obtain ⟨frame, index, rfl, rfl⟩ := takeRegisterAt_eq_ok.1 h
    exact ⟨rfl, BitVec.eq_of_toNat_eq hcode, by simp [encodeOperands]⟩
  case h_7 hcode | h_8 hcode | h_10 hcode | h_17 hcode | h_18 hcode | h_19 hcode | h_20 hcode | h_21 hcode | h_22 hcode =>
    obtain ⟨S, rfl, rfl⟩ := takeSeqInstr_eq_ok.1 h
    exact ⟨rfl, BitVec.eq_of_toNat_eq hcode, rfl⟩
  case h_27 => cases h
  all_goals
    cases h
    exact ⟨rfl, BitVec.eq_of_toNat_eq ‹_›, rfl⟩

/-- The reader accepts exactly the encodings of well-formed requests, and gives back what stands behind them. -/
theorem takeInstr_eq_ok {bs rest : Bytes} {i : Instr} :
    takeInstr bs = .ok (i, rest) ↔ i.wf = true ∧ bs = encode i ++ rest := by
  constructor
  · intro h
    cases bs with
    | nil => cases h
    | cons header bs =>
      obtain ⟨hwf, rfl, rfl⟩ := of_takeOperands_eq_ok h
      exact ⟨hwf, rfl⟩
  · rintro ⟨hwf, rfl⟩
    exact takeOperands_encodeOperands hwf rest

/-- A sequence decodes exactly when it is the encoding of a well-formed request with zero bytes behind it (log entry 1). -/
theorem decode_eq_ok {r : Bytes} {i : Instr} :
    decode r = .ok i ↔ i.wf = true ∧ ∃ n, r = encode i ++ List.replicate n 0 := by
  rw [decode, andThen_eq_ok]
  constructor
  · rintro ⟨j, rest, hread, hpad⟩
    split at hpad
    case isTrue hzero =>
      cases hpad
      obtain ⟨hwf, rfl⟩ := takeInstr_eq_ok.1 hread
      have hrest : rest = List.replicate rest.length 0 := List.eq_replicate_iff.2 ⟨rfl, by simpa using hzero⟩
      exact ⟨hwf, rest.length, congrArg (encode i ++ ·) hrest⟩
    case isFalse => cases hpad
  · rintro ⟨hwf, n, rfl⟩
    exact ⟨i, _, takeInstr_eq_ok.2 ⟨hwf, rfl⟩, if_pos (by simp)⟩

/-- Settles O2: an encoding with padding is what decodes. -/
theorem decodeInvertsEncode : Obligations.DecodeInvertsEncode :=
  fun _ n hwf => decode_eq_ok.2 ⟨hwf, n, rfl⟩

/-- Settles O3: only an encoding with padding decodes. -/
theorem onlyEncodingsDecode : Obligations.OnlyEncodingsDecode :=
  fun _ _ => decode_eq_ok.1

/-- Settles O1: each word runs through the decoder. -/
theorem writtenOutWordsDecode : Obligations.WrittenOutWordsDecode :=
  ⟨rfl, rfl, rfl, rfl, rfl, rfl, rfl, rfl, rfl, rfl, rfl, rfl, rfl, rfl⟩

end Sys2Proof

/-! PROOFS. What a request may do at all: one outcome and one new buffer, fixed by its operands and `PB`, or one refusal (10_state.md R18, 20_memory.md R33, 60_exceptions.md R149). -/

namespace Sys2Proof.Machine

open Sys2Proof.Safety

/-- Off the buffer only a reserved code and a checksum range beyond its bytes are refused (R53, R71). -/
theorem refused_offBuffer {i : Instr} {s : State} {r : Refusal} (hoff : ¬ TouchesBuffer i) (h : exec i s = .refused r) :
    (∃ code, i = .opselReserved code ∧ r = .reservedOpsel code) ∨
    ∃ data n, i = .crc16 data (some n) ∧ data.length < n ∧ r = .checksumRangeBeyondBytes n data.length := by
  by_cases hop : IsOperation i
  · obtain ⟨o, ho⟩ := exec_pure_eq_report hop hoff
    rw [ho] at h
    cases h
  cases i with
  | crc16 data length =>
    rcases checksumRange_cases data length with ⟨rfl, _⟩ | ⟨n, rfl, _, hrange⟩ | ⟨n, rfl, hlong, hrange⟩
    · exact absurd rfl hop
    · simp [exec, execCrc16, hrange, finish] at h
    · simp only [exec, execCrc16, hrange] at h
      cases h
      exact .inr ⟨data, n, rfl, hlong, rfl⟩
  | opselReserved code =>
    cases h
    exact .inl ⟨code, rfl, rfl⟩
  | pWait | pSkip | pDropAll | pEmit => exact absurd (.inr (.inr (by simp [microSteps]))) hoff
  | cmd | env | frameOut | frameIn | request | response => cases h
  | _ => exact absurd trivial hop

/-- Settles O58: off the buffer a request reports or is refused, and who is refused is known. -/
theorem requestsOffTheBufferGiveOneAnswer : Obligations.RequestsOffTheBufferGiveOneAnswer := by
  intro i hoff
  rcases exec_offBuffer_cases hoff with ⟨o, ho⟩ | ⟨r, hr⟩
  · exact .inl ⟨o, ho⟩
  · refine .inr ⟨r, hr, ?_⟩
    rcases refused_offBuffer hoff (hr State.reset) with ⟨code, hi, _⟩ | ⟨data, n, hi, hlong, _⟩
    · exact .inl ⟨code, hi⟩
    · exact .inr ⟨data, n, hi, hlong⟩

/-! The micro-steps as requests: one runs, by the buffer (42_stream_parser.md R100; log entry 6). -/

/-- The conditions of the four micro-steps in the terms of the statements (R101 to R104). -/
theorem selectMicroStep_spec (pb : Bytes) :
    (selectMicroStep pb = .wait ∧ Quiescent pb) ∨
    (∃ k, selectMicroStep pb = .skip k ∧ 2 ≤ pb.length ∧ ¬ StartsWithMagic pb ∧
      1 ≤ k ∧ pb[k]? = some 0xA1#8 ∧ ∀ j, 1 ≤ j → j < k → pb[j]? ≠ some 0xA1#8) ∨
    (selectMicroStep pb = .dropAll ∧ 2 ≤ pb.length ∧ ¬ StartsWithMagic pb ∧ ∀ j, 1 ≤ j → pb[j]? ≠ some 0xA1#8) ∨
    (selectMicroStep pb = .emit (leAt pb 4 + 6) ∧ StartsWithMagic pb ∧ 6 ≤ pb.length ∧ leAt pb 4 + 6 ≤ pb.length) := by
  rcases selectMicroStep_cases pb
    with ⟨hsel, hquiet⟩ | ⟨k, hsel, hlen, hmagic, hfind⟩ | ⟨hsel, hlen, hmagic, hfind⟩ | ⟨hsel, hmagic, hlen, htotal⟩
  · exact .inl ⟨hsel, quiescent_iff.1 hquiet⟩
  · exact .inr (.inl ⟨k, hsel, hlen, magic_eq_false_iff.1 hmagic, findFrom_eq_some.1 hfind⟩)
  · exact .inr (.inr (.inl ⟨hsel, hlen, magic_eq_false_iff.1 hmagic, findFrom_eq_none.1 hfind⟩))
  · rw [total_eq_leAt_add] at hsel htotal
    exact .inr (.inr (.inr ⟨hsel, magic_iff.1 hmagic, hlen, htotal⟩))

/-- P_SKIP to `k` is picked where `k` is the least candidate (R102). -/
theorem selectMicroStep_eq_skip {pb : Bytes} {k : Nat} (hlen : 2 ≤ pb.length) (hmagic : ¬ StartsWithMagic pb)
    (hk : 1 ≤ k) (hcandidate : pb[k]? = some 0xA1#8) (hleast : ∀ j, 1 ≤ j → j < k → pb[j]? ≠ some 0xA1#8) :
    selectMicroStep pb = .skip k := by
  have hfind : findFrom pb Config.magic0 1 = some k := findFrom_eq_some.2 ⟨hk, hcandidate, hleast⟩
  rw [selectMicroStep_of_not_magic hlen hmagic, hfind]
  rfl

/-- P_DROPALL is picked where there is no candidate (R103). -/
theorem selectMicroStep_eq_dropAll {pb : Bytes} (hlen : 2 ≤ pb.length) (hmagic : ¬ StartsWithMagic pb)
    (hnone : ∀ j, 1 ≤ j → pb[j]? ≠ some 0xA1#8) : selectMicroStep pb = .dropAll := by
  have hfind : findFrom pb Config.magic0 1 = none := findFrom_eq_none.2 hnone
  rw [selectMicroStep_of_not_magic hlen hmagic, hfind]
  rfl

/-- Without the magic the loop skips to the least candidate, or drops all where there is none (R102, R103). -/
theorem skip_or_dropAll_of_not_magic {pb : Bytes} (hlen : 2 ≤ pb.length) (hmagic : ¬ StartsWithMagic pb) :
    (∃ k, selectMicroStep pb = .skip k ∧ 1 ≤ k ∧ pb[k]? = some 0xA1#8 ∧ ∀ j, 1 ≤ j → j < k → pb[j]? ≠ some 0xA1#8) ∨
    (selectMicroStep pb = .dropAll ∧ ∀ j, 1 ≤ j → pb[j]? ≠ some 0xA1#8) := by
  rw [selectMicroStep_of_not_magic hlen hmagic]
  cases hfind : findFrom pb Config.magic0 1 with
  | some k => exact .inl ⟨k, rfl, findFrom_eq_some.1 hfind⟩
  | none => exact .inr ⟨rfl, findFrom_eq_none.1 hfind⟩

/-- P_EMIT is picked where a whole frame stands at the front (R104). -/
theorem selectMicroStep_eq_emit {pb : Bytes} (hmagic : StartsWithMagic pb) (hlen : 6 ≤ pb.length)
    (hwhole : leAt pb 4 + 6 ≤ pb.length) : selectMicroStep pb = .emit (leAt pb 4 + 6) := by
  rcases selectMicroStep_spec pb with ⟨_, hquiet⟩ | ⟨_, _, _, hno, _⟩ | ⟨_, _, hno, _⟩ | ⟨hsel, _⟩
  · rcases hquiet with h2 | ⟨_, h6⟩ | ⟨_, hshort⟩ <;> omega
  · exact absurd hmagic hno
  · exact absurd hmagic hno
  · exact hsel

/-- The request for a micro-step (log entry 6). -/
def requestOf : MicroStep → Instr
  | .wait => .pWait
  | .skip _ => .pSkip
  | .dropAll => .pDropAll
  | .emit _ => .pEmit

theorem requestOf_mem_microSteps (m : MicroStep) : requestOf m ∈ microSteps := by
  cases m <;> simp [requestOf, microSteps]

/-- The micro-step that the buffer selects runs on request (R100). -/
theorem exec_requestOf {s : State} {m : MicroStep} (h : selectMicroStep s.pb = m) :
    exec (requestOf m) s = .next ((s.setPb (m.leaves s.pb)).report (.ok (.frames (m.emits s.pb)))) := by
  cases m <;> simp only [requestOf, exec, execPWait, execPSkip, execPDropAll, execPEmit, h, runMicroStep_eq]

/-- Every other micro-step is refused (R100). -/
theorem exec_microStep_refused {i : Instr} {s : State} (hm : i ∈ microSteps)
    (h : i ≠ requestOf (selectMicroStep s.pb)) : exec i s = .refused .microStepNotSelected := by
  simp only [microSteps, List.mem_cons, List.not_mem_nil, or_false] at hm
  rcases hm with rfl | rfl | rfl | rfl
  all_goals
    simp only [exec, execPWait, execPSkip, execPDropAll, execPEmit]
    split
    · exact absurd (by rw [‹selectMicroStep s.pb = _›]; rfl) h
    · rfl

/-- The buffer meets the condition of a micro-step only where it selects it (R100). -/
theorem eq_requestOf_of_selects {pb : Bytes} {i : Instr} (hm : i ∈ microSteps) (h : Selects pb i) :
    i = requestOf (selectMicroStep pb) := by
  simp only [microSteps, List.mem_cons, List.not_mem_nil, or_false] at hm
  rcases hm with rfl | rfl | rfl | rfl
  · rw [selectMicroStep_eq_wait_iff.2 h]
    rfl
  · obtain ⟨hlen, hmagic, k, hk, hcandidate⟩ := h
    rcases skip_or_dropAll_of_not_magic hlen hmagic with ⟨_, hsel, _⟩ | ⟨_, hnone⟩
    · rw [hsel]
      rfl
    · exact absurd hcandidate (hnone k hk)
  · obtain ⟨hlen, hmagic, hnone⟩ := h
    rw [selectMicroStep_eq_dropAll hlen hmagic hnone]
    rfl
  · obtain ⟨hmagic, hlen, hwhole⟩ := h
    rw [selectMicroStep_eq_emit hmagic hlen hwhole]
    rfl

/-- Settles O8: RESET and FEED always run, off the buffer two requests are refused, and of the micro-steps those that the buffer does not select. -/
theorem onlyMeaninglessRequestsAreRefused : Obligations.OnlyMeaninglessRequestsAreRefused := by
  intro i s
  by_cases htouch : TouchesBuffer i
  · rcases htouch with rfl | ⟨chunk, rfl⟩ | hm
    · exact .inl ⟨_, exec_reset_next.2 rfl⟩
    · exact .inl ⟨_, exec_feed_next.2 rfl⟩
    · by_cases hsel : i = requestOf (selectMicroStep s.pb)
      · rw [hsel]
        exact .inl ⟨_, exec_requestOf rfl⟩
      · exact .inr (.inr (.inr ⟨hm, fun h => hsel (eq_requestOf_of_selects hm h), exec_microStep_refused hm hsel⟩))
  · rcases exec_offBuffer_cases htouch with ⟨o, ho⟩ | ⟨r, hr⟩
    · exact .inl ⟨_, ho s⟩
    · rcases refused_offBuffer htouch (hr s) with ⟨code, hi, rfl⟩ | ⟨data, n, hi, hlong, rfl⟩
      · exact .inr (.inl ⟨code, hi, hr s⟩)
      · exact .inr (.inr (.inl ⟨data, n, hi, hlong, hr s⟩))

/-- Settles O30: where its row's condition holds the micro-step is the selected one. -/
theorem microStepsActWhereSelected : Obligations.MicroStepsActWhereSelected := fun _ =>
  ⟨fun hquiet => exec_requestOf (selectMicroStep_eq_wait_iff.2 hquiet),
   fun _ hlen hmagic hk hcandidate hleast => exec_requestOf (selectMicroStep_eq_skip hlen hmagic hk hcandidate hleast),
   fun hlen hmagic hnone => exec_requestOf (selectMicroStep_eq_dropAll hlen hmagic hnone),
   fun hmagic hlen hwhole => exec_requestOf (selectMicroStep_eq_emit hmagic hlen hwhole)⟩

/-- Settles O31: the selected one runs, the others are refused. -/
theorem exactlyOneMicroStepRuns : Obligations.ExactlyOneMicroStepRuns := fun _ =>
  ⟨_, requestOf_mem_microSteps _, ⟨_, exec_requestOf rfl⟩, fun _ hm hne => exec_microStep_refused hm hne⟩

/-- A micro-step request that runs is the selected one's (R100). -/
theorem eq_requestOf_of_exec_next {i : Instr} {s t : State} (hm : i ∈ microSteps) (h : exec i s = .next t) :
    i = requestOf (selectMicroStep s.pb) := by
  by_contra hne
  rw [exec_microStep_refused hm hne] at h
  cases h

/-- How many bytes at least the request of a micro-step takes from the buffer (R105). -/
def leastShortening : Instr → Nat
  | .pSkip => 1
  | .pDropAll => 2
  | .pEmit => 6
  | _ => 0

theorem leaves_length_add_leastShortening (pb : Bytes) :
    ((selectMicroStep pb).leaves pb).length + leastShortening (requestOf (selectMicroStep pb)) ≤ pb.length := by
  rcases selectMicroStep_spec pb with ⟨hsel, _⟩ | ⟨k, hsel, hlen, _, hk, _⟩ | ⟨hsel, hlen, _⟩ | ⟨hsel, _, hlen, hwhole⟩
  · rw [hsel]
    exact le_rfl
  · simp only [hsel, MicroStep.leaves, requestOf, leastShortening, List.length_drop]
    omega
  · rw [hsel]
    exact (Nat.zero_add 2).trans_le hlen
  · simp only [hsel, MicroStep.leaves, requestOf, leastShortening, List.length_drop]
    omega

/-- A micro-step request that runs shortens the buffer by its row's bound. -/
theorem exec_microStep_shortens {i : Instr} {s t : State} (hm : i ∈ microSteps) (h : exec i s = .next t) :
    t.pb.length + leastShortening i ≤ s.pb.length := by
  obtain rfl := eq_requestOf_of_exec_next hm h
  rw [exec_requestOf rfl] at h
  cases h
  exact leaves_length_add_leastShortening s.pb

/-- Settles O32: each is the bound of its row. -/
theorem microStepsShortenTheBuffer : Obligations.MicroStepsShortenTheBuffer := fun _ _ =>
  ⟨exec_microStep_shortens (requestOf_mem_microSteps (.skip 0)), exec_microStep_shortens (requestOf_mem_microSteps .dropAll),
   exec_microStep_shortens (requestOf_mem_microSteps (.emit 0))⟩

/-! The effect of a request is fixed by its operands and the buffer (R18). -/

/-- Every request, by the buffer it finds: one outcome and one new buffer, or one refusal (R8, R149). -/
theorem exec_effect (i : Instr) (S : Bytes) :
    (∃ pb o, ∀ s : State, s.pb = S → exec i s = .next ((s.setPb pb).report o)) ∨
    ∃ r, ∀ s : State, s.pb = S → exec i s = .refused r := by
  by_cases htouch : TouchesBuffer i
  · rcases htouch with rfl | ⟨chunk, rfl⟩ | hm
    · exact .inl ⟨[], .ok .done, fun _ _ => rfl⟩
    · refine .inl ⟨(parse (S ++ chunk)).2, .ok (.frames (parse (S ++ chunk)).1), ?_⟩
      rintro s rfl
      exact exec_feed_next.2 rfl
    · by_cases hsel : i = requestOf (selectMicroStep S)
      · refine .inl ⟨(selectMicroStep S).leaves S, .ok (.frames ((selectMicroStep S).emits S)), ?_⟩
        rintro s rfl
        rw [hsel]
        exact exec_requestOf rfl
      · refine .inr ⟨.microStepNotSelected, ?_⟩
        rintro s rfl
        exact exec_microStep_refused hm hsel
  · rcases exec_offBuffer_cases htouch with ⟨o, ho⟩ | ⟨r, hr⟩
    · refine .inl ⟨S, o, ?_⟩
      rintro s rfl
      exact ho s
    · exact .inr ⟨r, fun s _ => hr s⟩

/-- Settles O10: a request that runs writes the buffer and reports once. -/
theorem everyRequestAddsExactlyOneOutcome : Obligations.EveryRequestAddsExactlyOneOutcome := by
  intro i s t h
  rcases exec_effect i s.pb with ⟨pb, o, hnext⟩ | ⟨r, hrefused⟩
  · rw [hnext s rfl] at h
    cases h
    exact ⟨rfl, o, rfl⟩
  · rw [hrefused s rfl] at h
    cases h

/-- Settles O12: the effect at one buffer serves both states. -/
theorem effectDependsOnTheBufferAlone : Obligations.EffectDependsOnTheBufferAlone := by
  intro i s t hpb
  rcases exec_effect i t.pb with ⟨pb, o, hnext⟩ | ⟨r, hrefused⟩
  · exact .inl ⟨pb, o, hnext s hpb, hnext t rfl⟩
  · exact .inr ⟨r, hrefused s hpb, hrefused t rfl⟩

/-! Errors (60_exceptions.md R148, R150). -/

/-- An operation that ends with a result reports no error (R8). -/
theorem outcomes_ne_error_of_finish {r : OpResult} {s t : State} {pb : Bytes} {e : OpError}
    (h : finish r (s.setPb pb) = .next t) : t.outcomes ≠ s.outcomes ++ [.error e] := by
  rw [finish_next.1 h]
  simp

/-- An encoder that reports an error has changed nothing else (R150). -/
theorem finishBytes_error {r : Except OpError Bytes} {s t : State} {e : OpError} (h : finishBytes r s = .next t)
    (herror : t.outcomes = s.outcomes ++ [.error e]) : t = s.report (.error e) := by
  obtain ⟨o, ho⟩ := finishBytes_eq_report r
  rw [ho] at h
  cases h
  obtain rfl : o = .error e := by simpa using herror
  rfl

/-- Settles O13: every request but the encoders ends with a result. -/
theorem errorsComeFromEncodersAndChangeNothing : Obligations.ErrorsComeFromEncodersAndChangeNothing := by
  intro i s t e h herror
  cases i with
  | buildCmd a b c => exact ⟨finishBytes_error h herror, .inl ⟨a, b, c, rfl⟩⟩
  | buildEnv a b => exact ⟨finishBytes_error h herror, .inr (.inl ⟨a, b, rfl⟩)⟩
  | buildFrame a b c => exact ⟨finishBytes_error h herror, .inr (.inr (.inl ⟨a, b, c, rfl⟩))⟩
  | encodeReq a b c d e' f => exact ⟨finishBytes_error h herror, .inr (.inr (.inr ⟨a, b, c, d, e', f, rfl⟩))⟩
  | crc16 data length =>
    simp only [exec, execCrc16] at h
    split at h
    · exact absurd herror (outcomes_ne_error_of_finish (pb := s.pb) h)
    · cases h
  | opselReserved code => cases h
  | pWait | pSkip | pDropAll | pEmit =>
    have hrun := runMicroStep_of_exec_next (by simp [microSteps]) h
    exact absurd herror (outcomes_ne_error_of_finish hrun)
  | reset | feed => exact absurd herror (outcomes_ne_error_of_finish h)
  | _ => exact absurd herror (outcomes_ne_error_of_finish (pb := s.pb) h)

/-! The queue of requests (20_memory.md R35). -/

/-- Settles O4: the step by the queue and by what its oldest request decodes to. -/
theorem stepRunsTheDecodedRequest : Obligations.StepRunsTheDecodedRequest := by
  intro s r rest
  refine ⟨fun i hqueue hdecode => ?_, fun why hqueue hdecode => ?_, fun hqueue => ?_⟩
  · simp only [step, hqueue, hdecode]
    rfl
  · simp only [step, hqueue, hdecode]
  · simp only [step, hqueue]

/-- The step with the encoding of a well-formed request in front runs that request (log entry 1). -/
theorem step_encode {i : Instr} (hwf : i.wf = true) (s : State) (rest : List Bytes) :
    step (s.setRequests (encode i :: rest)) = exec i (s.setRequests rest) :=
  (stepRunsTheDecodedRequest (s.setRequests (encode i :: rest)) _ rest).1 i rfl (decode_eq_ok.2 ⟨hwf, 0, by simp⟩)

/-- Running the encoded queue is executing its requests, from every state (R35). -/
theorem run_encode_eq_execAll {is : List Instr} (hwf : ∀ i ∈ is, i.wf = true) (s : State) :
    Host.Core.run core is.length (s.setRequests (is.map encode)) = execAll is (s.setRequests []) := by
  induction is generalizing s with
  | nil => rfl
  | cons i is ih =>
    obtain ⟨hi, his⟩ := List.forall_mem_cons.1 hwf
    have hstep : core.step (s.setRequests ((i :: is).map encode)) = exec i (s.setRequests (is.map encode)) :=
      step_encode hi s _
    simp only [List.length_cons, Host.Core.run, execAll]
    rw [hstep]
    rcases exec_effect i s.pb with ⟨pb, o, hnext⟩ | ⟨r, hrefused⟩
    · rw [hnext (s.setRequests (is.map encode)) rfl, hnext (s.setRequests []) rfl]
      exact ih his ((s.setPb pb).report o)
    · rw [hrefused (s.setRequests (is.map encode)) rfl, hrefused (s.setRequests []) rfl]
      rfl

/-- Settles O6: each step takes the front of the queue and runs it. -/
theorem requestsRunInTheOrderIssued : Obligations.RequestsRunInTheOrderIssued :=
  fun _ s hwf => run_encode_eq_execAll hwf s

/-- Settles O5: the word's request is decoded and taken from the queue again. -/
theorem fetchedWordRunsNext : Obligations.FetchedWordRunsNext := by
  intro s nbits w i h
  rw [decodeTableWord] at h
  split at h
  case h_1 hdecode =>
    cases h
    exact (stepRunsTheDecodedRequest (s.withFetchWord nbits w) _ s.requests).1 i rfl hdecode
  case h_2 => cases h

/-- Settles O9: the selector byte alone is the request's encoding. -/
theorem reservedSelectorIsRefused : Obligations.ReservedSelectorIsRefused := by
  intro code s hreserved
  refine ⟨rfl, fun rest hqueue => ?_⟩
  have hdecode : decode (encode (.opselReserved code)) = .ok (.opselReserved code) :=
    decode_eq_ok.2 ⟨decide_eq_true hreserved, 0, by simp⟩
  exact (stepRunsTheDecodedRequest s _ rest).1 _ hqueue hdecode

/-- Settles O14: the reset state is written out in the model. -/
theorem powerOnIsEmpty : Obligations.PowerOnIsEmpty := ⟨rfl, rfl, rfl⟩

/-- Settles O15: RESET writes the empty buffer and reports. -/
theorem resetEmptiesTheBuffer : Obligations.ResetEmptiesTheBuffer :=
  fun _ => exec_reset_next.2 rfl

end Sys2Proof.Machine

/-! PROOFS. The checksum's range form and its residue law (40_checksum.md R71, R72). -/

namespace Sys2Proof.Machine

open Sys2Proof.Safety

/-- Settles O17: the range, where it exists, is what the plain form covers. -/
theorem crc16RangeForm : Obligations.Crc16RangeForm := by
  intro data n s
  refine ⟨fun hinside => ?_, fun hbeyond => ?_⟩
  · have hrange : exec (.crc16 data (some n)) s = exec (.crc16 (data.take n) none) s := by
      simp [exec, execCrc16, checksumRange, hinside]
    exact ⟨⟨_, hrange.trans (exec_crc16_plain _ s)⟩, hrange⟩
  · simp [exec, execCrc16, checksumRange, Nat.not_le.2 hbeyond]

/-- Bit rounds on a number whose low bits are 0 only shift them out (R68). -/
theorem bitRound_iterate_two_pow_mul (n m : Nat) : bitRound^[n] (2 ^ n * m) = m := by
  induction n with
  | zero => simp
  | succ n ih =>
    have hround : bitRound (2 ^ (n + 1) * m) = 2 ^ n * m := by
      have heven : 2 ^ (n + 1) * m = 2 * (2 ^ n * m) := by ring
      rw [heven, bitRound, if_neg (by omega)]
      omega
    rw [Function.iterate_succ_apply, hround, ih]

/-- XORing a number's low byte into it clears that byte. -/
theorem xor_low_byte (n : Nat) : n ^^^ n % 256 = 2 ^ 8 * (n / 256) := by
  refine Nat.eq_of_testBit_eq fun j => ?_
  rw [Nat.testBit_xor, show (256 : Nat) = 2 ^ 8 from rfl, Nat.testBit_mod_two_pow, Nat.testBit_two_pow_mul,
    Nat.testBit_div_two_pow]
  by_cases hj : j < 8
  · simp [hj]
  · simp [hj, Nat.not_lt.1 hj]

/-- Its own low byte shifts the accumulator by one byte (R67). -/
theorem crcByte_lowByte (acc : U16) : (crcByte acc (lowByte acc.toNat)).toNat = acc.toNat / 256 := by
  rw [crcByte_toNat, lowByte, BitVec.toNat_ofNat, xor_low_byte]
  exact bitRound_iterate_two_pow_mul 8 _

/-- A byte that equals the accumulator clears it (R67). -/
theorem crcByte_eq_zero {acc : U16} {b : Byte} (h : b.toNat = acc.toNat) : crcByte acc b = 0 := by
  refine BitVec.eq_of_toNat_eq ?_
  rw [crcByte_toNat, h, Nat.xor_self]
  exact bitRound_iterate_two_pow_mul 8 0

/-- Settles O18: the low byte leaves the high byte in the accumulator, which the high byte clears. -/
theorem checksumOfDataAndChecksumIsZero : Obligations.ChecksumOfDataAndChecksumIsZero := by
  intro data s
  have hresidue (c : U16) : crcByte (crcByte c (lowByte c.toNat)) (highByte c.toNat) = 0 := by
    refine crcByte_eq_zero ?_
    rw [crcByte_lowByte, highByte, BitVec.toNat_ofNat]
    have := c.isLt
    omega
  have hzero : crc16 (data ++ [lowByte (crc16 data).toNat, highByte (crc16 data).toNat]) = 0 := by
    rw [List.append_cons, crc16_append_singleton, crc16_append_singleton, hresidue]
  refine ⟨crc16 data, exec_crc16_plain data s, ?_⟩
  rw [exec_crc16_plain, hzero]
  rfl

end Sys2Proof.Machine

/-! PROOFS. The encoders' errors, and the request that the three of them compose (41_encoders.md R79, R82, R84, R85). -/

namespace Sys2Proof.Machine

open Sys2Proof.Safety

/-- Settles O21: the serial is checked before the length. -/
theorem buildEnvChecksSerialThenLength : Obligations.BuildEnvChecksSerialThenLength := fun _ cmd s =>
  ⟨fun hserial => congrArg (finishBytes · s) (buildEnv_of_ne hserial cmd),
   fun hserial hlong => congrArg (finishBytes · s) (buildEnv_of_long hserial hlong)⟩

/-- Settles O23: the length check raises, and nothing is built. -/
theorem buildFrameRefusesLongEnvelopes : Obligations.BuildFrameRefusesLongEnvelopes :=
  fun ver fc _ s hlong => congrArg (finishBytes · s) (buildFrame_of_long hlong ver fc)

/-- The command of 18 bytes (R41). -/
def cmdBytes (inv : Bytes) (start count : U16) : Bytes :=
  cmdBody inv start count ++ le16 (crc16 (cmdBody inv start count))

theorem cmdBytes_length {inv : Bytes} (h : inv.length = 10) (start count : U16) : (cmdBytes inv start count).length = 18 := by
  rw [cmdBytes, List.length_append, cmdBody_length h, le16_length]

theorem buildCmd_eq_cmdBytes {inv : Bytes} (h : inv.length = 10) (start count : U16) :
    buildCmd inv start count = .ok (cmdBytes inv start count) :=
  buildCmd_of_length h start count

/-- The envelope of 30 bytes around a command (R42). -/
def requestEnvelope (dl inv : Bytes) (start count : U16) : Bytes :=
  dl ++ le16 18 ++ cmdBytes inv start count

theorem requestEnvelope_length {dl inv : Bytes} (hdl : dl.length = 10) (hinv : inv.length = 10) (start count : U16) :
    (requestEnvelope dl inv start count).length = 30 := by
  simp [requestEnvelope, le16_length, cmdBytes_length hinv, hdl]

/-- ENCODE_REQ's bytes: the frame header of a 30-byte envelope, the data logger's serial, the length 18, the command (R44). -/
theorem encodeReq_of_lengths {dl inv : Bytes} (hdl : dl.length = 10) (hinv : inv.length = 10) (ver start count : U16) (fc : Byte) :
    encodeReq ver dl inv start count fc = .ok (frameHeader ver fc 30 ++ requestEnvelope dl inv start count) := by
  have henv : buildEnv dl (cmdBytes inv start count) = .ok (requestEnvelope dl inv start count) := by
    rw [buildEnv_of_lengths hdl (by rw [cmdBytes_length hinv]; omega), cmdBytes_length hinv]
    rfl
  have hlength := requestEnvelope_length hdl hinv start count
  rw [encodeReq, buildCmd_eq_cmdBytes hinv]
  simp only [henv]
  rw [buildFrame_eq_header_append (by omega), hlength]

/-- A field behind leading bytes stands that much later. -/
theorem holdsAt_append_right {S T : Bytes} {a n m : Nat} (hS : S.length = m) (h : HoldsAt T a n) : HoldsAt (S ++ T) (m + a) n := by
  subst hS
  obtain ⟨hlow, hhigh⟩ := h
  constructor
  · rw [List.getElem?_append_right (by omega), Nat.add_sub_cancel_left, hlow]
  · rw [List.getElem?_append_right (by omega), Nat.add_assoc, Nat.add_sub_cancel_left, hhigh]

/-- Settles O24: the layout of the frame header, then of envelope and command behind their leading bytes. -/
theorem encodeReqLaysOutTheRequest : Obligations.EncodeReqLaysOutTheRequest := by
  intro ver dl inv start count fc s hdl hinv
  have hbody := cmdBody_length hinv start count
  have hhead : (frameHeader ver fc 30 ++ (dl ++ le16 18)).length = 20 := by
    simp [frameHeader_length, le16_length, hdl]
  have hsplit : frameHeader ver fc 30 ++ requestEnvelope dl inv start count =
      frameHeader ver fc 30 ++ (dl ++ le16 18) ++ cmdBytes inv start count := by
    simp [requestEnvelope]
  have hcmd {a n : Nat} (h : HoldsAt (cmdBytes inv start count) a n) :
      HoldsAt (frameHeader ver fc 30 ++ requestEnvelope dl inv start count) (20 + a) n := by
    rw [hsplit]
    exact holdsAt_append_right hhead h
  refine ⟨_, crc16 (cmdBody inv start count), congrArg (finishBytes · s) (encodeReq_of_lengths hdl hinv ver start count fc),
    ?length, ⟨rfl, rfl⟩, holdsAt_append_left (frameHeader_holds_version ver fc 30) _,
    holdsAt_append_left (frameHeader_holds_length (by omega) ver fc) _, rfl, rfl, ?dl, ?envLen, ?addr, ?func, ?inv,
    hcmd (holdsAt_append_left (cmdBody_holds_start hinv start count) _),
    hcmd (holdsAt_append_left (cmdBody_holds_count hinv start count) _), ?covered,
    hcmd (holdsAt_append_le16 hbody _)⟩
  case length => rw [List.length_append, frameHeader_length, requestEnvelope_length hdl hinv]
  case dl =>
    rw [List.drop_left' (frameHeader_length ver fc 30), requestEnvelope, List.append_assoc]
    exact List.take_left' hdl
  case envLen =>
    rw [hsplit, ← List.append_assoc]
    exact holdsAt_append_left (holdsAt_append_le16 (by simp [frameHeader_length, hdl]) 18) _
  case addr =>
    rw [hsplit, List.getElem?_append_right (by omega), hhead]
    rfl
  case func =>
    rw [hsplit, List.getElem?_append_right (by omega), hhead]
    rfl
  case inv =>
    rw [hsplit, ← List.drop_drop (i := 2) (j := 20), List.drop_left' hhead]
    exact cmdBody_serial hinv start count _
  case covered =>
    rw [hsplit, List.drop_left' hhead, cmdBytes, List.take_left' hbody]
    exact exec_crc16_plain _ s

/-- Settles O25: the command is built first, and with it the inverter's serial is checked. -/
theorem encodeReqChecksInverterSerialFirst : Obligations.EncodeReqChecksInverterSerialFirst := by
  intro ver dl inv start count fc s
  refine ⟨fun hinv => ?_, fun hinv hdl => ?_⟩
  · have herror : encodeReq ver dl inv start count fc = .error (.badSerialLength .invSerial inv.length) := by
      rw [encodeReq, buildCmd_of_ne hinv]
    exact congrArg (finishBytes · s) herror
  · have herror : encodeReq ver dl inv start count fc = .error (.badSerialLength .dlSerial dl.length) := by
      rw [encodeReq, buildCmd_of_length hinv]
      simp only [buildEnv_of_ne hdl]
    exact congrArg (finishBytes · s) herror

end Sys2Proof.Machine

/-! PROOFS. The invariant: where the parser stops the buffer is quiescent, and every step keeps that (10_state.md R15, 42_stream_parser.md R111). -/

namespace Sys2Proof.Machine

open Sys2Proof.Safety

/-- Every request that runs keeps a quiescent buffer quiescent: RESET empties it, FEED ends where the loop waits, all others keep the bytes (R15, R154). -/
theorem exec_keeps_quiescent {i : Instr} {s t : State} (hquiet : Quiescent s.pb) (h : exec i s = .next t) :
    Quiescent t.pb := by
  have hwait := selectMicroStep_eq_wait_iff.2 hquiet
  by_cases htouch : TouchesBuffer i
  · rcases htouch with rfl | ⟨chunk, rfl⟩ | hm
    · exact selectMicroStep_eq_wait_iff.1 (selectMicroStep_after_feed_or_reset (.inr h))
    · exact selectMicroStep_eq_wait_iff.1 (selectMicroStep_after_feed_or_reset (.inl ⟨chunk, h⟩))
    · rwa [exec_microStep_pb_of_wait hm hwait h]
  · rwa [exec_offBuffer_pb htouch h]

/-- All that a step that gives a next state can do: idle, or run its oldest request (R35, R157). -/
theorem step_next_cases {s t : State} (h : step s = .next t) :
    t = s ∨ ∃ i rest, exec i (s.setRequests rest) = .next t := by
  rw [step] at h
  split at h
  case h_1 =>
    cases h
    exact .inl rfl
  case h_2 r rest _ =>
    split at h
    case h_1 i _ => exact .inr ⟨i, rest, h⟩
    case h_2 => cases h

/-- Settles O38: an idle step changes nothing, and every request that runs keeps the invariant. -/
theorem stepKeepsTheBufferQuiescent : Obligations.StepKeepsTheBufferQuiescent := by
  intro s t hquiet h
  rcases step_next_cases h with rfl | ⟨i, rest, hexec⟩
  · exact hquiet
  · exact exec_keeps_quiescent (s := s.setRequests rest) hquiet hexec

/-- Settles O39: the empty buffer is shorter than 2 bytes. -/
theorem powerOnIsQuiescent : Obligations.PowerOnIsQuiescent := .inl Nat.zero_lt_two

/-- A u16 field is below 65536 (R5). -/
theorem leAt_lt (S : Bytes) (a : Nat) : leAt S a < 65536 := by
  have hlow := (S.getD a 0).isLt
  have hhigh := (S.getD (a + 1) 0).isLt
  rw [leAt]
  omega

/-- Settles O37: FEED ends where the loop waits, and a declared length is below 65536. -/
theorem feedLeavesAQuiescentBuffer : Obligations.FeedLeavesAQuiescentBuffer := by
  intro chunk s t h
  obtain ⟨_, _, _, _, hnoop⟩ := purityAndIdempotency
  have hquiet := selectMicroStep_eq_wait_iff.1 (selectMicroStep_after_feed_or_reset (.inl ⟨chunk, h⟩))
  have hdeclared := leAt_lt t.pb 4
  refine ⟨hquiet, ?_, ?_, hnoop s t (.inl ⟨chunk, h⟩)⟩
  · rcases hquiet with h2 | ⟨_, h6⟩ | ⟨_, hbody⟩ <;> omega
  · rcases hquiet with h2 | ⟨hmagic, _⟩ | ⟨hmagic, _⟩
    · rcases Nat.lt_or_ge t.pb.length 1 with h0 | h1
      · exact .inl (List.length_eq_zero_iff.1 (by omega))
      · exact .inr (.inl (by omega))
    · exact .inr (.inr hmagic)
    · exact .inr (.inr hmagic)

end Sys2Proof.Machine

/-! PROOFS. The loop of FEED, by induction over its micro-steps: its frames, its slices, its requests (42_stream_parser.md R95, R104, R105, R112). -/

namespace Sys2Proof.Machine

open Sys2Proof.Safety

/-- Induction over the loop: it ends where it waits, and goes on with what its micro-step leaves, which is shorter (R100, R105). -/
theorem loop_induction {motive : Bytes → Prop} (wait : ∀ pb, selectMicroStep pb = .wait → motive pb)
    (step : ∀ pb, selectMicroStep pb ≠ .wait → motive ((selectMicroStep pb).leaves pb) → motive pb) (pb : Bytes) :
    motive pb := by
  by_cases h : selectMicroStep pb = .wait
  · exact wait pb h
  · exact step pb h (loop_induction wait step _)
termination_by pb.length
decreasing_by exact leaves_shorter h

/-- The same by the four micro-steps, with their conditions (R101 to R104). -/
theorem parse_induction {motive : Bytes → Prop} (wait : ∀ pb, selectMicroStep pb = .wait → motive pb)
    (skip : ∀ pb k, selectMicroStep pb = .skip k → 2 ≤ pb.length → ¬ StartsWithMagic pb → 1 ≤ k → pb[k]? = some 0xA1#8 →
      (∀ j, 1 ≤ j → j < k → pb[j]? ≠ some 0xA1#8) → motive (pb.drop k) → motive pb)
    (dropAll : ∀ pb, selectMicroStep pb = .dropAll → 2 ≤ pb.length → ¬ StartsWithMagic pb →
      (∀ j, 1 ≤ j → pb[j]? ≠ some 0xA1#8) → motive pb)
    (emit : ∀ pb, selectMicroStep pb = .emit (leAt pb 4 + 6) → StartsWithMagic pb → 6 ≤ pb.length →
      leAt pb 4 + 6 ≤ pb.length → motive (pb.drop (leAt pb 4 + 6)) → motive pb) (pb : Bytes) :
    motive pb := by
  induction pb using loop_induction with
  | wait pb h => exact wait pb h
  | step pb _ ih =>
    rcases selectMicroStep_spec pb with ⟨hsel, _⟩ | ⟨k, hsel, hlen, hmagic, hk, hcandidate, hleast⟩ |
      ⟨hsel, hlen, hmagic, hnone⟩ | ⟨hsel, hmagic, hlen, hwhole⟩
    · exact wait pb hsel
    · rw [hsel] at ih
      exact skip pb k hsel hlen hmagic hk hcandidate hleast ih
    · exact dropAll pb hsel hlen hmagic hnone
    · rw [hsel] at ih
      exact emit pb hsel hmagic hlen hwhole ih

/-- Settles O29: the loop emits the frame and goes on with the rest, as FEED of nothing does there. -/
theorem emittingCutsTheDeclaredLength : Obligations.EmittingCutsTheDeclaredLength := by
  rintro s chunk S rfl hmagic hlen hwhole
  have hparse := parse_emit (selectMicroStep_eq_emit hmagic hlen hwhole)
  refine ⟨(parse ((s.pb ++ chunk).drop (leAt (s.pb ++ chunk) 4 + 6))).1,
    (parse ((s.pb ++ chunk).drop (leAt (s.pb ++ chunk) 4 + 6))).2, ?_, ?_⟩
  · rw [exec_feed_next, List.append_nil]
    rfl
  · rw [exec_feed_next, hparse]
    rfl

/-! The frames (R112). -/

/-- What follows does not change a field that stands before it (R27). -/
theorem leAt_append_left {S T : Bytes} {a : Nat} (h : a + 1 < S.length) : leAt (S ++ T) a = leAt S a := by
  simp only [leAt, List.getD_eq_getElem?_getD, List.getElem?_append_left h, List.getElem?_append_left (Nat.lt_of_succ_lt h)]

theorem startsWithMagic_append_left {S T : Bytes} (h : 2 ≤ S.length) : StartsWithMagic (S ++ T) ↔ StartsWithMagic S := by
  rw [StartsWithMagic, List.getElem?_append_left (by omega), List.getElem?_append_left (by omega)]

/-- What P_EMIT cuts off is a frame (R104, R112). -/
theorem isFrame_take {pb : Bytes} (hmagic : StartsWithMagic pb) (hwhole : leAt pb 4 + 6 ≤ pb.length) :
    IsFrame (pb.take (leAt pb 4 + 6)) := by
  have hlength : (pb.take (leAt pb 4 + 6)).length = leAt pb 4 + 6 := List.length_take_of_le hwhole
  have hdeclared : leAt (pb.take (leAt pb 4 + 6)) 4 = leAt pb 4 := by
    conv_rhs => rw [← List.take_append_drop (leAt pb 4 + 6) pb]
    exact (leAt_append_left (by omega)).symm
  rw [← List.take_append_drop (leAt pb 4 + 6) pb, startsWithMagic_append_left (by omega)] at hmagic
  exact ⟨hmagic, by omega, by rw [hdeclared, hlength]⟩

/-- Every frame of the loop is a frame (R112). -/
theorem isFrame_of_mem_parse {pb F : Bytes} (h : F ∈ (parse pb).1) : IsFrame F := by
  induction pb using parse_induction with
  | wait pb hsel => simp [parse_wait hsel] at h
  | skip pb k hsel _ _ _ _ _ ih => exact ih (parse_skip hsel ▸ h)
  | dropAll pb hsel => simp [parse_dropAll hsel] at h
  | emit pb hsel hmagic _ hwhole ih =>
    rw [parse_emit hsel] at h
    rcases List.mem_cons.1 h with rfl | hrest
    · exact isFrame_take hmagic hwhole
    · exact ih hrest

/-- The frames that a FEED reports are the loop's (R95). -/
theorem frames_of_exec_feed {chunk : Bytes} {s t : State} {frames : List Bytes} (h : exec (.feed chunk) s = .next t)
    (hreport : t.outcomes = s.outcomes ++ [.ok (.frames frames)]) : frames = (parse (s.pb ++ chunk)).1 := by
  rw [exec_feed_next.1 h] at hreport
  simpa [eq_comm] using hreport

/-- Settles O35: a frame's declared length is below 65536. -/
theorem emittedFramesAreAsLongAsTheyDeclare : Obligations.EmittedFramesAreAsLongAsTheyDeclare := by
  intro chunk s t frames h hreport F hF
  rw [frames_of_exec_feed h hreport] at hF
  obtain ⟨hmagic, hheader, hlength⟩ := isFrame_of_mem_parse hF
  have := leAt_lt F 4
  exact ⟨⟨hmagic, hheader, hlength⟩, by omega⟩

/-! The slices of the stream (R10, R104). -/

/-- The stream is the frames, in order, with what is lost before each and behind the last, and the bytes kept (R102 to R104). -/
def SlicesInto (stream : Bytes) (frames : List Bytes) (kept : Bytes) : Prop :=
  ∃ (gaps : List Bytes) (lost : Bytes), gaps.length = frames.length ∧ stream = weave gaps frames ++ lost ++ kept

/-- Bytes before the stream are lost with its first gap. -/
theorem SlicesInto.append_lost {stream : Bytes} {frames : List Bytes} {kept : Bytes} (h : SlicesInto stream frames kept)
    (front : Bytes) : SlicesInto (front ++ stream) frames kept := by
  obtain ⟨gaps, lost, hcount, rfl⟩ := h
  cases gaps with
  | nil => exact ⟨[], front ++ lost, hcount, by simp [weave]⟩
  | cons gap gaps =>
    obtain ⟨F, rest, rfl⟩ := List.exists_cons_of_length_eq_add_one hcount.symm
    exact ⟨(front ++ gap) :: gaps, lost, hcount, by simp [weave]⟩

/-- A frame before the stream comes first. -/
theorem SlicesInto.append_frame {stream : Bytes} {frames : List Bytes} {kept : Bytes} (h : SlicesInto stream frames kept)
    (F : Bytes) : SlicesInto (F ++ stream) (F :: frames) kept := by
  obtain ⟨gaps, lost, hcount, rfl⟩ := h
  exact ⟨[] :: gaps, lost, congrArg (· + 1) hcount, by simp [weave]⟩

theorem parse_slices (pb : Bytes) : SlicesInto pb (parse pb).1 (parse pb).2 := by
  induction pb using parse_induction with
  | wait pb hsel =>
    rw [parse_wait hsel]
    exact ⟨[], [], rfl, rfl⟩
  | skip pb k hsel _ _ _ _ _ ih =>
    have hslices := ih.append_lost (pb.take k)
    rwa [List.take_append_drop, ← parse_skip hsel] at hslices
  | dropAll pb hsel =>
    rw [parse_dropAll hsel]
    exact ⟨[], pb, rfl, by simp [weave]⟩
  | emit pb hsel _ _ _ ih =>
    have hslices := ih.append_frame (pb.take (leAt pb 4 + 6))
    rw [List.take_append_drop] at hslices
    rwa [parse_emit hsel]

/-- Settles O36: the slices of the loop on the appended buffer. -/
theorem framesAreSlicesInStreamOrder : Obligations.FramesAreSlicesInStreamOrder := by
  intro chunk s
  obtain ⟨gaps, lost, hcount, hslices⟩ := parse_slices (s.pb ++ chunk)
  exact ⟨gaps, _, lost, _, exec_feed_next.2 rfl, hcount, hslices⟩

/-! Requests that hand over frames, one after the other (R177). -/

/-- Running these requests ends with this buffer and hands over these frames. -/
def Delivers (is : List Instr) (s : State) (frames : List Bytes) (pb : Bytes) : Prop :=
  ∃ t, execAll is s = .next t ∧ t.pb = pb ∧ ∃ os, t.outcomes = s.outcomes ++ os ∧ framesIn os = frames

theorem delivers_nil (s : State) : Delivers [] s [] s.pb :=
  ⟨s, rfl, rfl, [], (List.append_nil _).symm, rfl⟩

theorem delivers_cons {i : Instr} {is : List Instr} {s : State} {pb kept : Bytes} {first frames : List Bytes}
    (h : exec i s = .next ((s.setPb pb).report (.ok (.frames first))))
    (hrest : Delivers is ((s.setPb pb).report (.ok (.frames first))) frames kept) :
    Delivers (i :: is) s (first ++ frames) kept := by
  obtain ⟨t, hrun, hpb, os, hos, rfl⟩ := hrest
  refine ⟨t, ?_, hpb, .ok (.frames first) :: os, ?_, rfl⟩
  · rw [execAll, h]
    exact hrun
  · rw [hos]
    simp

/-- The frames handed over are those between the two states. -/
theorem Delivers.newFrames_eq {is : List Instr} {s t : State} {frames : List Bytes} {pb : Bytes}
    (h : Delivers is s frames pb) (hrun : execAll is s = .next t) : newFrames s t = frames := by
  obtain ⟨t', hrun', _, os, hos, hframes⟩ := h
  rw [hrun] at hrun'
  cases hrun'
  rw [newFrames, hos, List.drop_left, hframes]

theorem Delivers.pb_eq {is : List Instr} {s t : State} {frames : List Bytes} {pb : Bytes}
    (h : Delivers is s frames pb) (hrun : execAll is s = .next t) : t.pb = pb := by
  obtain ⟨t', hrun', hpb, _⟩ := h
  rw [hrun] at hrun'
  cases hrun'
  exact hpb

/-- The loop as requests: its micro-steps in order, fewer than there are bytes, then P_WAIT (R100, R105). -/
theorem delivers_microSteps (pb : Bytes) : ∃ steps : List Instr,
    (∀ i ∈ steps, i ∈ ([.pSkip, .pDropAll, .pEmit] : List Instr)) ∧ steps.length ≤ pb.length ∧
    ∀ s : State, s.pb = pb → Delivers (steps ++ [.pWait]) s (parse pb).1 (parse pb).2 := by
  induction pb using loop_induction with
  | wait pb hsel =>
    refine ⟨[], by simp, Nat.zero_le _, ?_⟩
    rintro s rfl
    rw [parse_wait hsel]
    exact delivers_cons (exec_requestOf hsel) (delivers_nil _)
  | step pb hsel ih =>
    obtain ⟨steps, hsteps, hcount, hdelivers⟩ := ih
    have hshorter := leaves_shorter hsel
    refine ⟨requestOf (selectMicroStep pb) :: steps, ?_, by rw [List.length_cons]; omega, ?_⟩
    · refine List.forall_mem_cons.2 ⟨?_, hsteps⟩
      cases hm : selectMicroStep pb with
      | wait => exact absurd hm hsel
      | skip | dropAll | emit => simp [requestOf]
    · rintro s rfl
      rw [parse_step hsel]
      exact delivers_cons (exec_requestOf rfl) (hdelivers _ rfl)

/-- Settles O33: FEED and the loop's requests hand over the same frames and leave the same buffer. -/
theorem feedIsItsMicroSteps : Obligations.FeedIsItsMicroSteps := by
  intro chunk s
  obtain ⟨steps, hsteps, hcount, hdelivers⟩ := delivers_microSteps (s.pb ++ chunk)
  obtain ⟨t, hrun, hpb, os, hos, hframes⟩ := hdelivers (s.setPb (s.pb ++ chunk)) rfl
  refine ⟨steps, t, _, hsteps, by rwa [← List.length_append], hrun, exec_feed_next.2 rfl, hpb.symm, ?_⟩
  rw [newFrames, newFrames, hos]
  simp [hframes, framesIn]

end Sys2Proof.Machine

/-! PROOFS. Independence from chunking: the loop after an append goes on where it stopped, up to one stray byte (42_stream_parser.md R108). -/

namespace Sys2Proof.Machine

open Sys2Proof.Safety

/-- The buffer without a stray byte: a single byte that cannot begin a frame is worth nothing (R108). -/
def dropStray : Bytes → Bytes
  | [b] => if b = 0xA1#8 then [b] else []
  | pb => pb

/-- Either there is no stray byte, or it is the whole buffer. -/
theorem dropStray_cases (pb : Bytes) : dropStray pb = pb ∨ ∃ b, b ≠ 0xA1#8 ∧ pb = [b] ∧ dropStray pb = [] := by
  match pb with
  | [] | _ :: _ :: _ => exact .inl rfl
  | [b] =>
    by_cases hb : b = 0xA1#8
    · exact .inl (if_pos hb)
    · exact .inr ⟨b, hb, rfl, if_neg hb⟩

/-- What a run of the loop is worth: its frames, and the buffer up to a stray byte. -/
def settle (r : List Bytes × Bytes) : List Bytes × Bytes := (r.1, dropStray r.2)

/-- Bytes without a candidate come to nothing (R103). -/
theorem settle_parse_of_no_candidate {S : Bytes} (hnone : ∀ j : Nat, S[j]? ≠ some 0xA1#8) : settle (parse S) = ([], []) := by
  match S with
  | [] => rfl
  | [b] =>
    have hb : b ≠ 0xA1#8 := fun h => hnone 0 (congrArg some h)
    rw [parse_wait (pb := [b]) rfl]
    simp [settle, dropStray, hb]
  | a :: b :: S =>
    rw [parse_dropAll (selectMicroStep_eq_dropAll (by simp) (fun h => hnone 0 h.1) fun j _ => hnone j)]
    rfl

/-- The loop goes to the least candidate, wherever it stands (R102). -/
theorem parse_eq_parse_drop {S : Bytes} {k : Nat} (hcandidate : S[k]? = some 0xA1#8)
    (hleast : ∀ j, j < k → S[j]? ≠ some 0xA1#8) : parse S = parse (S.drop k) := by
  cases k with
  | zero => rfl
  | succ k =>
    obtain ⟨hinside, _⟩ := List.getElem?_eq_some_iff.1 hcandidate
    exact parse_skip (selectMicroStep_eq_skip (by omega) (fun h => hleast 0 (by omega) h.1) (by omega) hcandidate
      fun j _ hj => hleast j hj)

/-- Leading bytes that begin no frame and hold no candidate behind the first change nothing (R102, R103). -/
theorem settle_parse_append {g T : Bytes} (hg : g ≠ []) (hlen : 2 ≤ (g ++ T).length) (hmagic : ¬ StartsWithMagic (g ++ T))
    (hnone : ∀ j, 1 ≤ j → g[j]? ≠ some 0xA1#8) : settle (parse (g ++ T)) = settle (parse T) := by
  have hpos : 1 ≤ g.length := List.length_pos_iff.2 hg
  have hbehind (j : Nat) : (g ++ T)[g.length + j]? = T[j]? := by
    rw [List.getElem?_append_right (by omega), Nat.add_sub_cancel_left]
  rcases skip_or_dropAll_of_not_magic hlen hmagic with ⟨k, hsel, hk, hcandidate, hleast⟩ | ⟨hsel, hnothing⟩
  · obtain ⟨j, rfl⟩ : ∃ j, k = g.length + j := by
      refine Nat.exists_eq_add_of_le (Nat.not_lt.1 fun hinside => hnone k hk ?_)
      rwa [List.getElem?_append_left hinside] at hcandidate
    have hrest : parse T = parse (T.drop j) := by
      refine parse_eq_parse_drop (hbehind j ▸ hcandidate) fun m hm => ?_
      rw [← hbehind]
      exact hleast _ (by omega) (by omega)
    rw [parse_skip hsel, List.drop_length_add_append, hrest]
  · rw [parse_dropAll hsel, settle_parse_of_no_candidate fun j => ?_]
    · rfl
    · rw [← hbehind]
      exact hnothing _ (by omega)

/-- More bytes do not move a field, a candidate or a frame: the loop takes the same frames, then goes on (R104, R108). -/
theorem settle_parse_append_eq (S T : Bytes) :
    settle (parse (S ++ T)) = ((parse S).1 ++ (settle (parse ((parse S).2 ++ T))).1, (settle (parse ((parse S).2 ++ T))).2) := by
  induction S using parse_induction with
  | wait S hsel =>
    rw [parse_wait hsel]
    rfl
  | skip S k hsel hlen hmagic hk hcandidate hleast ih =>
    obtain ⟨hinside, _⟩ := List.getElem?_eq_some_iff.1 hcandidate
    have hskip : selectMicroStep (S ++ T) = .skip k := by
      refine selectMicroStep_eq_skip (by rw [List.length_append]; omega) (by rwa [startsWithMagic_append_left hlen]) hk
        (by rwa [List.getElem?_append_left hinside]) fun j h1 hj => ?_
      rw [List.getElem?_append_left (by omega)]
      exact hleast j h1 hj
    rw [parse_skip hskip, parse_skip hsel, List.drop_append_of_le_length (by omega)]
    exact ih
  | dropAll S hsel hlen hmagic hnone =>
    rw [settle_parse_append (by rintro rfl; simp at hlen) (by rw [List.length_append]; omega)
      (by rwa [startsWithMagic_append_left hlen]) hnone, parse_dropAll hsel]
    rfl
  | emit S hsel hmagic hlen hwhole ih =>
    have hdeclared : leAt (S ++ T) 4 = leAt S 4 := leAt_append_left (by omega)
    have hemit : selectMicroStep (S ++ T) = .emit (leAt S 4 + 6) := by
      rw [← hdeclared]
      exact selectMicroStep_eq_emit ((startsWithMagic_append_left (by omega)).2 hmagic) (by rw [List.length_append]; omega)
        (by rw [hdeclared, List.length_append]; omega)
    rw [parse_emit hemit, parse_emit hsel, List.take_append_of_le_length hwhole, List.drop_append_of_le_length hwhole]
    exact congrArg (fun r => (S.take (leAt S 4 + 6) :: r.1, r.2)) ih

/-! FEEDs one after the other. -/

/-- What feeding chunks gives: the frames of every FEED, in order, and the last buffer. -/
def feedRun : List Bytes → Bytes → List Bytes × Bytes
  | [], pb => ([], pb)
  | c :: cs, pb => ((parse (pb ++ c)).1 ++ (feedRun cs (parse (pb ++ c)).2).1, (feedRun cs (parse (pb ++ c)).2).2)

theorem delivers_feedAll (cs : List Bytes) (s : State) : Delivers (feedAll cs) s (feedRun cs s.pb).1 (feedRun cs s.pb).2 := by
  induction cs generalizing s with
  | nil => exact delivers_nil s
  | cons c cs ih => exact delivers_cons (exec_feed_next.2 rfl) (ih _)

/-- Feeding one or more chunks is worth what the loop is worth on the whole stream (R108). -/
theorem settle_feedRun {cs : List Bytes} (hcs : cs ≠ []) (pb : Bytes) :
    settle (feedRun cs pb) = settle (parse (pb ++ cs.flatten)) := by
  induction cs generalizing pb with
  | nil => exact absurd rfl hcs
  | cons c cs ih =>
    cases cs with
    | nil => simp [feedRun]
    | cons d ds =>
      have hrest := ih (List.cons_ne_nil d ds) (parse (pb ++ c)).2
      rw [List.flatten_cons, ← List.append_assoc, settle_parse_append_eq, ← hrest]
      rfl

/-- The last buffer is an end of the stream (R10). -/
theorem feedRun_suffix (cs : List Bytes) (pb : Bytes) : (feedRun cs pb).2 <:+ pb ++ cs.flatten := by
  induction cs generalizing pb with
  | nil => simp [feedRun]
  | cons c cs ih =>
    obtain ⟨gaps, lost, _, hslices⟩ := parse_slices (pb ++ c)
    have hkept : (parse (pb ++ c)).2 ++ cs.flatten <:+ pb ++ c ++ cs.flatten := by
      refine ⟨weave gaps (parse (pb ++ c)).1 ++ lost, ?_⟩
      rw [← List.append_assoc, ← hslices]
    rw [List.flatten_cons, ← List.append_assoc]
    exact (ih _).trans hkept

/-- Two cuttings of one stream give the same frames, and the same buffer up to a stray byte (R108). -/
theorem settle_feedRun_eq {cs ds : List Bytes} (hcs : cs ≠ []) (hds : ds ≠ []) (hstream : cs.flatten = ds.flatten) (pb : Bytes) :
    settle (feedRun cs pb) = settle (feedRun ds pb) := by
  rw [settle_feedRun hcs, settle_feedRun hds, hstream]

/-- Settles O40: both cuttings are worth the loop on the whole stream. -/
theorem cuttingTheStreamDoesNotChangeTheFrames : Obligations.CuttingTheStreamDoesNotChangeTheFrames := by
  intro cs ds s hcs hds hstream
  obtain ⟨t, ht, _⟩ := delivers_feedAll cs s
  obtain ⟨u, hu, _⟩ := delivers_feedAll ds s
  refine ⟨t, u, ht, hu, ?_⟩
  rw [(delivers_feedAll cs s).newFrames_eq ht, (delivers_feedAll ds s).newFrames_eq hu]
  exact (Prod.mk.inj (settle_feedRun_eq hcs hds hstream s.pb)).1

/-- Ends of one stream that agree up to a stray byte are equal, or one of them is that byte alone and the other is empty. -/
theorem eq_or_stray_of_dropStray_eq {S p q : Bytes} (hp : p <:+ S) (hq : q <:+ S) (h : dropStray p = dropStray q) :
    p = q ∨ ∃ b : Byte, b ≠ 0xA1 ∧ ((p = [] ∧ q = [b]) ∨ (p = [b] ∧ q = [])) := by
  rcases dropStray_cases p with hkeep | ⟨b, hb, rfl, hdrop⟩
  · rcases dropStray_cases q with hkeep' | ⟨c, hc, rfl, hdrop'⟩
    · exact .inl (hkeep.symm.trans (h.trans hkeep'))
    · exact .inr ⟨c, hc, .inl ⟨hkeep.symm.trans (h.trans hdrop'), rfl⟩⟩
  · rcases dropStray_cases q with hkeep' | ⟨c, hc, rfl, hdrop'⟩
    · exact .inr ⟨b, hb, .inr ⟨rfl, hkeep'.symm.trans (h.symm.trans hdrop)⟩⟩
    · exact .inl ((List.suffix_of_suffix_length_le hp hq le_rfl).eq_of_length rfl)

/-- Settles O41: both last buffers are ends of the stream; V50 and V51 are two cuttings that differ. -/
theorem cuttingTheStreamLeavesAtMostAStrayByte : Obligations.CuttingTheStreamLeavesAtMostAStrayByte := by
  refine ⟨fun cs ds s t u hcs hds hstream ht hu => ?_, ?_⟩
  · rw [(delivers_feedAll cs s).pb_eq ht, (delivers_feedAll ds s).pb_eq hu]
    refine eq_or_stray_of_dropStray_eq (feedRun_suffix cs s.pb) ?_
      (Prod.mk.inj (settle_feedRun_eq hcs hds hstream s.pb)).2
    rw [hstream]
    exact feedRun_suffix ds s.pb
  · exact ⟨[[0xA1, 0x00], [0x1A]], [[0xA1, 0x00, 0x1A]], _, _, rfl, rfl, rfl, by decide⟩

end Sys2Proof.Machine

/-! PROOFS. Whole frames, behind garbage and in pieces (42_stream_parser.md R106, R110). -/

namespace Sys2Proof.Machine

open Sys2Proof.Safety

/-- A frame at the front is emitted as it is (R104). -/
theorem parse_frame_append {F : Bytes} (hF : IsFrame F) (T : Bytes) : parse (F ++ T) = (F :: (parse T).1, (parse T).2) := by
  obtain ⟨hmagic, hlen, hlength⟩ := hF
  have hdeclared : leAt (F ++ T) 4 + 6 = F.length := by rw [leAt_append_left (by omega), hlength]
  have hemit : selectMicroStep (F ++ T) = .emit F.length := by
    rw [← hdeclared]
    exact selectMicroStep_eq_emit ((startsWithMagic_append_left (by omega)).2 hmagic) (by rw [List.length_append]; omega)
      (by rw [hdeclared, List.length_append]; omega)
  rw [parse_emit hemit, List.take_left, List.drop_left]

/-- Frames and nothing else are emitted as they are, and nothing stays (R106). -/
theorem parse_frames {Fs : List Bytes} (hFs : ∀ F ∈ Fs, IsFrame F) : parse Fs.flatten = (Fs, []) := by
  induction Fs with
  | nil => rfl
  | cons F Fs ih =>
    obtain ⟨hF, hrest⟩ := List.forall_mem_cons.1 hFs
    rw [List.flatten_cons, parse_frame_append hF, ih hrest]

/-- Garbage without the magic pair does not start with it, whatever frame is behind (R110). -/
theorem not_startsWithMagic_garbage_append {g T : Bytes} (hne : g ≠ []) (hg : ¬ HasMagicPair g) (hT : StartsWithMagic T) :
    ¬ StartsWithMagic (g ++ T) := by
  rintro ⟨hfirst, hsecond⟩
  have hpos : 1 ≤ g.length := List.length_pos_iff.2 hne
  rw [List.getElem?_append_left hpos] at hfirst
  rcases Nat.lt_or_ge 1 g.length with htwo | hone
  · rw [List.getElem?_append_left htwo] at hsecond
    exact hg ⟨0, hfirst, hsecond⟩
  · rw [List.getElem?_append_right hone, show 1 - g.length = 0 by omega, hT.1] at hsecond
    exact absurd hsecond (by decide)

theorem not_hasMagicPair_drop {g : Bytes} (hg : ¬ HasMagicPair g) (k : Nat) : ¬ HasMagicPair (g.drop k) := by
  rintro ⟨j, hfirst, hsecond⟩
  rw [List.getElem?_drop] at hfirst hsecond
  exact hg ⟨k + j, hfirst, hsecond⟩

/-- Garbage without the magic pair is skipped up to the first frame behind it, even where it ends in `A1` (R110). -/
theorem parse_garbage_append {g T : Bytes} (hg : ¬ HasMagicPair g) (hT : StartsWithMagic T) : parse (g ++ T) = parse T := by
  by_cases hne : g = []
  · rw [hne, List.nil_append]
  · have hpos : 1 ≤ g.length := List.length_pos_iff.2 hne
    have hframe : (g ++ T)[g.length]? = some 0xA1#8 := by
      rw [List.getElem?_append_right le_rfl, Nat.sub_self, hT.1]
    obtain ⟨hinside, _⟩ := List.getElem?_eq_some_iff.1 hframe
    have hmagic := not_startsWithMagic_garbage_append hne hg hT
    rcases skip_or_dropAll_of_not_magic (by omega) hmagic with ⟨k, hsel, hk, _, hleast⟩ | ⟨_, hnone⟩
    · have hbefore : k ≤ g.length := Nat.not_lt.1 fun hbeyond => hleast _ hpos hbeyond hframe
      rw [parse_skip hsel, List.drop_append_of_le_length hbefore]
      exact parse_garbage_append (not_hasMagicPair_drop hg k) hT
    · exact absurd hframe (hnone _ hpos)
termination_by g.length
decreasing_by
  rw [List.length_drop]
  omega

/-- What BUILD_FRAME answers is a frame (R43, R112). -/
theorem isFrame_of_exec_buildFrame {ver : U16} {fc : Byte} {payload F : Bytes} {s : State}
    (h : exec (.buildFrame ver fc payload) s = .next (s.report (.ok (.bytes F)))) : IsFrame F := by
  rcases Nat.lt_or_ge 65533 payload.length with hlong | hfits
  · rw [buildFrameRefusesLongEnvelopes ver fc payload s hlong] at h
    simp [State.report] at h
  · obtain ⟨G, hG, hmagic, _, _, _, _, _, hlength, htotal⟩ := buildFrameLaysOutTheFrame ver fc payload s hfits
    rw [hG] at h
    obtain rfl : G = F := by simpa [State.report] using h
    exact ⟨hmagic, by omega, htotal⟩

/-- Settles O42: the loop skips the garbage and emits the frames, and no cutting changes the frames. -/
theorem encodedFramesSurviveGarbage : Obligations.EncodedFramesSurviveGarbage := by
  intro g E Es s hempty hg hbuilt
  have hframes : ∀ F ∈ E :: Es, IsFrame F := fun F hF =>
    have ⟨_, _, _, hF⟩ := hbuilt F hF
    isFrame_of_exec_buildFrame hF
  obtain ⟨hmagic, hheader, _⟩ := hframes E List.mem_cons_self
  have hstarts : StartsWithMagic (E :: Es).flatten := (startsWithMagic_append_left (by omega)).2 hmagic
  have hparse : parse (s.pb ++ (g ++ (E :: Es).flatten)) = (E :: Es, []) := by
    rw [hempty, List.nil_append, parse_garbage_append hg hstarts, parse_frames hframes]
  refine ⟨?_, fun chunks hchunks => ?_⟩
  · rw [exec_feed_next, hparse, ← hempty]
    rfl
  · have hne : chunks ≠ [] := by
      rintro rfl
      have hlength := congrArg List.length hchunks
      simp only [List.flatten_nil, List.length_nil, List.flatten_cons, List.length_append] at hlength
      omega
    obtain ⟨t, ht, _⟩ := delivers_feedAll chunks s
    refine ⟨t, ht, ?_⟩
    rw [(delivers_feedAll chunks s).newFrames_eq ht, (Prod.mk.inj (settle_feedRun hne s.pb)).1, hchunks, hparse]

/-- A proper beginning of a frame leaves the parser waiting (R101, R106). -/
theorem quiescent_of_frame_beginning {q r : Bytes} (hF : IsFrame (q ++ r)) (hr : r ≠ []) : Quiescent q := by
  obtain ⟨hmagic, _, hlength⟩ := hF
  have hpos := List.length_pos_iff.2 hr
  rcases Nat.lt_or_ge q.length 2 with h2 | h2
  · exact .inl h2
  · rw [startsWithMagic_append_left h2] at hmagic
    rcases Nat.lt_or_ge q.length 6 with h6 | h6
    · exact .inr (.inl ⟨hmagic, h6⟩)
    · rw [leAt_append_left (by omega), List.length_append] at hlength
      exact .inr (.inr ⟨hmagic, by omega⟩)

/-- Settles O43: the beginning waits, the rest completes the frame. -/
theorem frameComesWithItsLastByte : Obligations.FrameComesWithItsLastByte := by
  refine ⟨fun F q r s hempty hF hcut hr => ?_, fun F G s hempty hF hG => ?_⟩
  · subst hcut
    have hwait : selectMicroStep (s.pb ++ q) = .wait := by
      rw [hempty, List.nil_append]
      exact selectMicroStep_eq_wait_iff.2 (quiescent_of_frame_beginning hF hr)
    have hparse : parse (q ++ r) = ([q ++ r], []) := by
      simpa using parse_frames (Fs := [q ++ r]) (List.forall_mem_singleton.2 hF)
    refine ⟨?_, ?_⟩
    · rw [exec_feed_of_wait hwait, hempty, List.nil_append]
      rfl
    · rw [exec_feed_next, hparse, ← hempty]
      rfl
  · have hparse : parse (s.pb ++ (F ++ G)) = ([F, G], []) := by
      rw [hempty, List.nil_append]
      simpa using parse_frames (Fs := [F, G]) (List.forall_mem_cons.2 ⟨hF, List.forall_mem_singleton.2 hG⟩)
    rw [exec_feed_next, hparse, ← hempty]
    rfl

end Sys2Proof.Machine

/-! PROOFS. Header and registers of a frame, and the metrics derived from them (43_dispatch_decode.md R125 to R135). -/

namespace Sys2Proof.Machine

open Sys2Proof.Safety

/-! Fields in the spec's own arithmetic. -/

theorem memRead16_eq_leAt (S : Bytes) (a : Nat) : memRead16 S a = BitVec.ofNat 16 (leAt S a) := by
  refine BitVec.eq_of_toNat_eq ?_
  rw [BitVec.toNat_ofNat, Nat.mod_eq_of_lt (leAt_lt S a)]
  exact memRead16_toNat S a

/-- A u16 field reads back the value it holds (R27). -/
theorem ofNat_leAt_of_holdsAt {S : Bytes} {a : Nat} {v : U16} (h : HoldsAt S a v.toNat) : BitVec.ofNat 16 (leAt S a) = v := by
  rw [leAt_of_holdsAt h v.isLt, BitVec.ofNat_toNat, BitVec.setWidth_eq]

/-- Settles O44: the length 8 alone decides. -/
theorem decodeHdrSplitsTheHeader : Obligations.DecodeHdrSplitsTheHeader := by
  intro F s
  refine ⟨fun hshort => ?_, fun hlong => ?_⟩
  · have hnone : decodeHeader F = none := if_pos hshort
    rw [exec, execDecodeHdr, hnone]
    rfl
  · have hsome : decodeHeader F = some { protocolVersion := BitVec.ofNat 16 (leAt F 2), tcpFc := F.getD 7 0, payload := F.drop 8 } := by
      rw [← memRead16_eq_leAt]
      exact if_neg (Nat.not_lt.2 hlong)
    rw [exec, execDecodeHdr, hsome]
    rfl

/-- Settles O45: the layout of a built frame, read by the header's offsets. -/
theorem headerRoundTrip : Obligations.HeaderRoundTrip := by
  intro ver fc payload s hfits
  obtain ⟨F, hbuilt, _, hver, _, _, hfc, hpayload, hlength, _⟩ := buildFrameLaysOutTheFrame ver fc payload s hfits
  have hheader := (decodeHdrSplitsTheHeader F s).2 (by omega)
  rw [ofNat_leAt_of_holdsAt hver, List.getD_eq_getElem?_getD, hfc, Option.getD_some, hpayload] at hheader
  exact ⟨F, hbuilt, hheader⟩

/-! Registers (R128, R129). -/

theorem registerAt_of_inside {F : Bytes} {i : Nat} (h : 2 * i + 37 ≤ F.length) :
    registerAt F i = BitVec.ofNat 16 (leAt F (35 + 2 * i)) := by
  rw [← memRead16_eq_leAt, Nat.add_comm 35]
  exact if_neg (Nat.not_le.2 h)

theorem registerAt_of_outside {F : Bytes} {i : Nat} (h : F.length < 2 * i + 37) : registerAt F i = 0 :=
  if_pos (Nat.le_of_lt_succ h)

/-- REGISTER_AT only reports its register (R128). -/
theorem exec_registerAt (F : Bytes) (i : Nat) (s : State) :
    exec (.registerAt F i) s = .next (s.report (.ok (.register (registerAt F i)))) := rfl

/-- Settles O46: a register is read where both bytes are inside. -/
theorem registerAtReadsBothBytesOrZero : Obligations.RegisterAtReadsBothBytesOrZero := by
  intro F i s
  refine ⟨fun hinside => ?_, fun houtside => ?_⟩
  · rw [exec_registerAt, registerAt_of_inside hinside]
    rfl
  · rw [exec_registerAt, registerAt_of_outside houtside]
    rfl

/-- A register as a number (R129). -/
theorem reg_eq (F : Bytes) (i : Nat) : reg F i = if 2 * i + 37 ≤ F.length then leAt F (35 + 2 * i) else 0 := by
  rw [reg]
  split
  case isTrue h => rw [registerAt_of_inside h, BitVec.toNat_ofNat, Nat.mod_eq_of_lt (leAt_lt _ _)]
  case isFalse h =>
    rw [registerAt_of_outside (Nat.not_le.1 h)]
    rfl

theorem reg_lt (F : Bytes) (i : Nat) : reg F i < 65536 := (registerAt F i).isLt

/-! Metrics (R131 to R133). -/

/-- Without a byte 7 there are no metrics (the spec's decision D13). -/
theorem metricsOf_of_short {F : Bytes} (h : F.length < 8) : metricsOf F = none := if_pos h

/-- With byte 7 = 194 there are (R131). -/
theorem metricsOf_of_response {F : Bytes} (h : F[7]? = some 194) :
    metricsOf F = some { pvFlowWatts := pvFlow F, consumptionWatts := consumption F } :=
  metricsOf_of_tcpFc h

theorem clampAtZero_eq_max (raw : Int) : clampAtZero raw = (max 0 raw).toNat := by
  rw [clampAtZero]
  split <;> omega

/-- Settles O47: the metrics are those of the registers as numbers. -/
theorem handleFrameDerivesTheMetrics : Obligations.HandleFrameDerivesTheMetrics := by
  intro F s r hr
  refine ⟨fun hresponse => ?_, fun hshort => ?_⟩
  · obtain rfl : reg F = r := funext fun i => (reg_eq F i).trans (hr i).symm
    rw [exec_handleFrame, metricsOf_of_response hresponse, consumption, clampAtZero_eq_max]
    rfl
  · rw [exec_handleFrame, metricsOf_of_short hshort]
    rfl

/-- Outside the frame every register is 0, and so are the metrics of a bare header (R135). -/
theorem metrics_of_header {F : Bytes} (h : F.length = 8) : pvFlow F = 0 ∧ consumption F = 0 := by
  have hreg (i : Nat) : reg F i = 0 := by rw [reg_eq, if_neg (by omega)]
  simp [pvFlow, consumption, rawConsumption, clampAtZero, hreg]

/-- A register that stays inside a cut frame reads as before (R135). -/
theorem registerAt_take {F : Bytes} {n i : Nat} (hinside : 2 * i + 37 ≤ n) (hcut : n ≤ F.length) :
    registerAt (F.take n) i = registerAt F i := by
  have hlength : (F.take n).length = n := List.length_take_of_le hcut
  rw [registerAt_of_inside (by omega), registerAt_of_inside (by omega)]
  conv_rhs => rw [← List.take_append_drop n F, leAt_append_left (by omega)]

/-- Registers depend on the length and the bytes from offset 35 on (R135). -/
theorem registerAt_congr {F G : Bytes} (hlength : F.length = G.length) (hdata : F.drop 35 = G.drop 35) :
    registerAt F = registerAt G := by
  funext i
  rcases Nat.lt_or_ge F.length (2 * i + 37) with houtside | hinside
  · rw [registerAt_of_outside houtside, registerAt_of_outside (hlength ▸ houtside)]
  · have hbyte (k : Nat) : F[35 + k]? = G[35 + k]? := by rw [← List.getElem?_drop, ← List.getElem?_drop, hdata]
    rw [registerAt_of_inside hinside, registerAt_of_inside (hlength ▸ hinside)]
    simp only [leAt, List.getD_eq_getElem?_getD, Nat.add_assoc, hbyte]

/-- Metrics depend on byte 7 and the registers (R131). -/
theorem metricsOf_congr {F G : Bytes} (hfc : F[7]? = G[7]?) (hreg : registerAt F = registerAt G) : metricsOf F = metricsOf G := by
  cases hF : F[7]? with
  | none =>
    rw [metricsOf_of_short (Nat.lt_succ_of_le (List.getElem?_eq_none_iff.1 hF)),
      metricsOf_of_short (Nat.lt_succ_of_le (List.getElem?_eq_none_iff.1 (hfc ▸ hF)))]
  | some fc =>
    rw [metricsOf_of_tcpFc hF, metricsOf_of_tcpFc (hfc ▸ hF)]
    simp only [pvFlow, consumption, rawConsumption, reg, hreg]

/-- Settles O49: a register outside reads 0, and nothing else is read but byte 7. -/
theorem decodingIsTolerant : Obligations.DecodingIsTolerant := by
  refine ⟨fun F s hresponse => ?_, fun F s hlong => ⟨?_, ?_⟩, fun F G s hlength hfc hdata => ?_⟩
  · refine ⟨{ pvFlowWatts := pvFlow F, consumptionWatts := consumption F }, ?_, fun hheader => ?_⟩
    · rw [exec_handleFrame, metricsOf_of_response hresponse]
      rfl
    · rw [(metrics_of_header hheader).1, (metrics_of_header hheader).2]
  · refine (registerAtReadsBothBytesOrZero (F.take 90) 27 s).2 ?_
    rw [List.length_take_of_le (by omega)]
    decide
  · intro i hi
    have hlast : i ≤ 26 := by
      revert i
      decide
    rw [exec_registerAt, exec_registerAt, registerAt_take (by omega) (by omega)]
  · rw [exec_handleFrame, exec_handleFrame, metricsOf_congr hfc (registerAt_congr hlength hdata)]

/-- Metrics are those of the registers, wherever there are any (R131). -/
theorem eq_of_metricsOf_eq_some {F : Bytes} {m : Metrics} (h : metricsOf F = some m) :
    m = { pvFlowWatts := pvFlow F, consumptionWatts := consumption F } := by
  simp only [metricsOf, Option.ite_none_left_eq_some, Option.ite_none_right_eq_some, Option.some.injEq] at h
  exact h.2.2.symm

theorem pvFlow_le (F : Bytes) : pvFlow F ≤ 196605 := by
  have h7 := reg_lt F 7
  have h8 := reg_lt F 8
  have h9 := reg_lt F 9
  rw [pvFlow]
  omega

theorem consumption_le (F : Bytes) : consumption F ≤ 131070 := by
  have h16 := reg_lt F 16
  have h27 := reg_lt F 27
  rw [consumption, clampAtZero_eq_max, rawConsumption]
  omega

/-- A response whose named registers are 65535, except that 17 and 26, which count against the consumption, are 0. -/
def maximalResponse : Bytes :=
  List.replicate 7 0x00 ++ [0xC2] ++ List.replicate 61 0xFF ++ [0x00, 0x00] ++ List.replicate 16 0xFF ++ [0x00, 0x00, 0xFF, 0xFF]

theorem metricsOf_maximalResponse :
    metricsOf maximalResponse = some { pvFlowWatts := 196605, consumptionWatts := 131070 } := by
  decide

/-- Settles O50: registers are below 65536, and one response reaches both bounds. -/
theorem metricsStayInRange : Obligations.MetricsStayInRange := by
  refine ⟨fun F s t m h hreport => ?_, maximalResponse, fun s => ?_⟩
  · rw [exec_handleFrame] at h
    cases h
    have hmetrics : metricsOf F = some m := by simpa using hreport
    rw [eq_of_metricsOf_eq_some hmetrics]
    exact ⟨pvFlow_le F, consumption_le F⟩
  · rw [exec_handleFrame, metricsOf_maximalResponse]
    rfl

end Sys2Proof.Machine

/-! PROOFS. The wire formats: what each row's pattern tests, and the fields behind it (30_encoding.md R41 to R45, R49, R56). -/

namespace Sys2Proof.Machine

open Sys2Proof.Safety

/-! Patterns, byte by byte (R56). -/

/-- A fixed byte must be there. -/
theorem matchesPattern_fixedByte_cons {b : Byte} {ps : List (Byte × Byte)} {S : Bytes} :
    matchesPattern (fixedByte b :: ps) S = true ↔ S[0]? = some b ∧ matchesPattern ps (S.drop 1) = true := by
  cases S with
  | nil => simp [matchesPattern]
  | cons c S =>
    have hmask (x : Byte) : x &&& 255#8 = x := BitVec.and_allOnes
    simp [matchesPattern, fixedByte, hmask]

/-- Bytes that are not tested must exist (R32). -/
theorem matchesPattern_fieldBytes_append {n : Nat} {ps : List (Byte × Byte)} {S : Bytes} :
    matchesPattern (fieldBytes n ++ ps) S = true ↔ n ≤ S.length ∧ matchesPattern ps (S.drop n) = true := by
  induction n generalizing S with
  | zero => simp [fieldBytes]
  | succ n ih =>
    cases S with
    | nil => simp [fieldBytes, List.replicate_succ, matchesPattern]
    | cons c S =>
      have hstep : matchesPattern (fieldBytes (n + 1) ++ ps) (c :: S) = matchesPattern (fieldBytes n ++ ps) S := by
        simp [fieldBytes, fieldByte, List.replicate_succ, matchesPattern]
      rw [hstep, ih, List.length_cons, List.drop_succ_cons, Nat.succ_le_succ_iff]

theorem matchesPattern_nil {S : Bytes} : matchesPattern [] S = true := by
  cases S <;> rfl

theorem matchesPattern_frameIn_append {ps : List (Byte × Byte)} {S : Bytes} :
    matchesPattern (frameInPattern ++ ps) S = true ↔ StartsWithMagic S ∧ matchesPattern ps (S.drop 2) = true := by
  simp only [frameInPattern, List.cons_append, List.nil_append, matchesPattern_fixedByte_cons, List.drop_drop,
    List.getElem?_drop, ← and_assoc]
  rfl

/-- Row CMD (R41). -/
theorem matchesPattern_cmd {S : Bytes} : matchesPattern cmdPattern S = true ↔ S[0]? = some 0 ∧ S[1]? = some 4 := by
  simp only [cmdPattern, matchesPattern_fixedByte_cons, matchesPattern_nil, List.getElem?_drop, and_true]
  rfl

/-- Row FRAME_IN (R49). -/
theorem matchesPattern_frameIn {S : Bytes} : matchesPattern frameInPattern S = true ↔ StartsWithMagic S := by
  rw [← List.append_nil frameInPattern, matchesPattern_frameIn_append, and_iff_left matchesPattern_nil]

/-- Row FRAME_OUT (R43). -/
theorem matchesPattern_frameOut {S : Bytes} :
    matchesPattern frameOutPattern S = true ↔ StartsWithMagic S ∧ S[6]? = some 1 ∧ 8 ≤ S.length := by
  have hpattern : frameOutPattern = frameInPattern ++ (fieldBytes 4 ++ (fixedByte Config.frameType :: (fieldBytes 1 ++ []))) := rfl
  simp only [hpattern, matchesPattern_frameIn_append, matchesPattern_fieldBytes_append, matchesPattern_fixedByte_cons,
    matchesPattern_nil, List.getElem?_drop, List.length_drop, and_true, Config.frameType]
  constructor
  · rintro ⟨hmagic, _, htype, hlen⟩
    exact ⟨hmagic, htype, by omega⟩
  · rintro ⟨hmagic, htype, hlen⟩
    exact ⟨hmagic, by omega, htype, by omega⟩

/-- Row REQUEST (R44). -/
theorem matchesPattern_request {S : Bytes} (h38 : S.length = 38) :
    matchesPattern requestPattern S = true ↔ StartsWithMagic S ∧ HoldsAt S 4 32 ∧ S[6]? = some 1 ∧ HoldsAt S 18 18 ∧
      S[20]? = some 0 ∧ S[21]? = some 4 := by
  have hpattern : requestPattern = frameInPattern ++ (fieldBytes 2 ++ (fixedByte 0x20#8 :: fixedByte 0x00#8 ::
      fixedByte Config.frameType :: (fieldBytes 11 ++ (fixedByte 0x12#8 :: fixedByte 0x00#8 :: cmdPattern)))) := rfl
  simp only [hpattern, matchesPattern_frameIn_append, matchesPattern_fieldBytes_append, matchesPattern_fixedByte_cons,
    matchesPattern_cmd, List.getElem?_drop, List.length_drop, h38]
  constructor
  · rintro ⟨hmagic, _, h4, h5, h6, _, h18, h19, h20, h21⟩
    exact ⟨hmagic, ⟨h4, h5⟩, h6, ⟨h18, h19⟩, h20, h21⟩
  · rintro ⟨hmagic, ⟨h4, h5⟩, h6, ⟨h18, h19⟩, h20, h21⟩
    exact ⟨hmagic, by omega, h4, h5, h6, by omega, h18, h19, h20, h21⟩

/-- Row RESPONSE: byte 7 only (R45). -/
theorem matchesPattern_response {S : Bytes} : matchesPattern responsePattern S = true ↔ S[7]? = some 194 := by
  rw [responsePattern, matchesPattern_fieldBytes_append, matchesPattern_fixedByte_cons, List.getElem?_drop,
    and_iff_left matchesPattern_nil]
  refine and_iff_right_of_imp fun hfc => ?_
  obtain ⟨hinside, _⟩ := List.getElem?_eq_some_iff.1 hfc
  omega

/-! Fields (R41 to R43). -/

theorem memRead16_toNat_eq_leAt (S : Bytes) (a : Nat) : (memRead16 S a).toNat = leAt S a := memRead16_toNat S a

theorem cmdFieldsAt_eq (S : Bytes) (a : Nat) : cmdFieldsAt S a =
    { targetAddress := S.getD a 0, cmdFc := S.getD (a + 1) 0, inverterSerial := (S.drop (a + 2)).take 10
      startRegister := BitVec.ofNat 16 (leAt S (a + 12)), registerCount := BitVec.ofNat 16 (leAt S (a + 14))
      checksum := BitVec.ofNat 16 (leAt S (a + 16)) } := by
  have hserial : a + 12 - (a + 2) = 10 := by omega
  simp only [cmdFieldsAt, slice, hserial, memRead16_eq_leAt]
  rfl

theorem envFieldsAt_eq (S : Bytes) (a : Nat) : envFieldsAt S a =
    { dataloggerSerial := (S.drop a).take 10, envLen := BitVec.ofNat 16 (leAt S (a + 10)), payload := S.drop (a + 12) } := by
  simp only [envFieldsAt, slice, Nat.add_sub_cancel_left, memRead16_eq_leAt]

theorem frameOutFieldsOf_eq (S : Bytes) : frameOutFieldsOf S =
    { magicPrefix := S.take 2, protocolVersion := BitVec.ofNat 16 (leAt S 2), frmLen := BitVec.ofNat 16 (leAt S 4)
      frameType := S.getD 6 0, tcpFc := S.getD 7 0, payload := S.drop 8 } := by
  simp only [frameOutFieldsOf, slice, memRead16_eq_leAt]
  rfl

/-- A byte that is there is what the default read gives. -/
theorem getD_of_getElem? {S : Bytes} {a : Nat} {b : Byte} (h : S[a]? = some b) : S.getD a 0 = b := by
  rw [List.getD_eq_getElem?_getD, h, Option.getD_some]

theorem take_two_of_startsWithMagic {S : Bytes} (h : StartsWithMagic S) : S.take 2 = [0xA1, 0x1A] := by
  obtain ⟨hfirst, hsecond⟩ := h
  match S with
  | [] | [_] => simp at hsecond
  | a :: b :: S =>
    simp only [List.getElem?_cons_zero, List.getElem?_cons_succ, Option.some.injEq] at hfirst hsecond
    rw [hfirst, hsecond]
    rfl

/-- A field inside the sequence has a value exactly where it holds it (R27). -/
theorem holdsAt_iff_leAt_eq {S : Bytes} {a n : Nat} (hinside : a + 1 < S.length) (hn : n < 65536) :
    HoldsAt S a n ↔ leAt S a = n := by
  refine ⟨fun h => leAt_of_holdsAt h hn, ?_⟩
  rintro rfl
  have hlow : lowByte (leAt S a) = S.getD a 0 := by
    refine BitVec.eq_of_toNat_eq ?_
    rw [lowByte, BitVec.toNat_ofNat, leAt]
    omega
  have hhigh : highByte (leAt S a) = S.getD (a + 1) 0 := by
    refine BitVec.eq_of_toNat_eq ?_
    rw [highByte, BitVec.toNat_ofNat, leAt]
    omega
  rw [HoldsAt, hlow, hhigh, List.getD_eq_getElem _ _ (by omega), List.getD_eq_getElem _ _ hinside]
  exact ⟨List.getElem?_eq_getElem _, List.getElem?_eq_getElem _⟩

/-! The rows as requests (log entry 5). -/

theorem readCmd_eq (S : Bytes) :
    readCmd S = if S.length = 18 ∧ S[0]? = some 0 ∧ S[1]? = some 4 then some (cmdFieldsAt S 0) else none := by
  rw [readCmd]
  simp only [Bool.and_eq_true, matchesPattern_cmd, decide_eq_true_eq, and_comm (a := S.length = _)]

/-- Settles O51: pattern and length 18, and the fields at their offsets. -/
theorem cmdFormatSplits : Obligations.CmdFormatSplits := by
  intro S s
  refine ⟨fun hlen haddr hfc => ?_, fun hno => ?_⟩
  · rw [exec, execCmd, readCmd_eq, if_pos ⟨hlen, haddr, hfc⟩, cmdFieldsAt_eq, getD_of_getElem? haddr, getD_of_getElem? hfc]
    rfl
  · rw [exec, execCmd, readCmd_eq, if_neg (by tauto)]
    rfl

theorem readEnv_eq (S : Bytes) :
    readEnv S = if 12 ≤ S.length ∧ S.length = 12 + leAt S 10 then some (envFieldsAt S 0) else none := by
  rw [readEnv]
  simp only [Bool.and_eq_true, decide_eq_true_eq, memRead16_toNat_eq_leAt]

/-- Settles O52: the length tests, and the fields at their offsets. -/
theorem envFormatSplits : Obligations.EnvFormatSplits := by
  intro S s
  refine ⟨fun hheader hlength => ?_, fun hno => ?_⟩
  · rw [exec, execEnv, readEnv_eq, if_pos ⟨hheader, hlength⟩, envFieldsAt_eq]
    rfl
  · rw [exec, execEnv, readEnv_eq, if_neg (by omega)]
    rfl

theorem readFrameIn_eq (S : Bytes) : readFrameIn S = if IsFrame S then
    some
      { magicPrefix := S.take 2, protocolVersion := BitVec.ofNat 16 (leAt S 2), frmLen := BitVec.ofNat 16 (leAt S 4)
        rest := S.drop 6 }
    else none := by
  rw [readFrameIn]
  simp only [Bool.and_eq_true, matchesPattern_frameIn, decide_eq_true_eq, memRead16_toNat_eq_leAt, and_assoc]
  simp only [slice, memRead16_eq_leAt]
  rfl

theorem readFrameOut_eq (S : Bytes) :
    readFrameOut S = if IsFrame S ∧ 8 ≤ S.length ∧ S[6]? = some 1 then some (frameOutFieldsOf S) else none := by
  have hiff : (StartsWithMagic S ∧ S[6]? = some 1 ∧ 8 ≤ S.length) ∧ S.length = leAt S 4 + 6 ↔
      IsFrame S ∧ 8 ≤ S.length ∧ S[6]? = some 1 := by
    constructor
    · rintro ⟨⟨hmagic, htype, h8⟩, hlength⟩
      exact ⟨⟨hmagic, by omega, hlength⟩, h8, htype⟩
    · rintro ⟨⟨hmagic, _, hlength⟩, h8, htype⟩
      exact ⟨⟨hmagic, htype, h8⟩, hlength⟩
  rw [readFrameOut]
  simp only [Bool.and_eq_true, matchesPattern_frameOut, decide_eq_true_eq, memRead16_toNat_eq_leAt, hiff]

/-- Settles O53: FRAME_IN tests for a frame, FRAME_OUT also for its header and type. -/
theorem frameFormatsSplit : Obligations.FrameFormatsSplit := by
  intro S s
  refine ⟨fun hframe => ?_, fun hno => ?_, fun hframe h8 htype => ?_, fun hno => ?_⟩
  · rw [exec, execFrameIn, readFrameIn_eq, if_pos hframe, take_two_of_startsWithMagic hframe.1]
    rfl
  · rw [exec, execFrameIn, readFrameIn_eq, if_neg hno]
    rfl
  · rw [exec, execFrameOut, readFrameOut_eq, if_pos ⟨hframe, h8, htype⟩, frameOutFieldsOf_eq,
      take_two_of_startsWithMagic hframe.1, getD_of_getElem? htype]
    rfl
  · have hfails : ¬ (IsFrame S ∧ 8 ≤ S.length ∧ S[6]? = some 1) := by
      rintro ⟨hframe, h8, htype⟩
      rcases hno with hno | hno | hno
      · exact hno hframe
      · omega
      · exact hno htype
    rw [exec, execFrameOut, readFrameOut_eq, if_neg hfails]
    rfl

/-- Settles O57: the frames of the loop are frames. -/
theorem emittedFramesHaveFormatFrameIn : Obligations.EmittedFramesHaveFormatFrameIn := by
  intro chunk s t frames h hreport F hF
  obtain ⟨hframe, _⟩ := emittedFramesAreAsLongAsTheyDeclare chunk s t frames h hreport F hF
  obtain ⟨hfields, _⟩ := frameFormatsSplit F t
  exact ⟨_, hfields hframe⟩

/-- The pattern and the length are what the statements ask of a request (R44). -/
theorem matchesPattern_request_and_length_iff {S : Bytes} :
    matchesPattern requestPattern S = true ∧ S.length = 38 ↔ IsRequest S := by
  rw [and_comm, IsRequest, and_congr_right_iff]
  intro h38
  rw [matchesPattern_request h38, holdsAt_iff_leAt_eq (by omega) (by omega), holdsAt_iff_leAt_eq (by omega) (by omega)]
  rfl

theorem readRequest_eq (S : Bytes) : readRequest S = if IsRequest S then
    some { frame := frameOutFieldsOf S, envelope := envFieldsAt S 8, command := cmdFieldsAt S 20 } else none := by
  rw [readRequest]
  simp only [Bool.and_eq_true, decide_eq_true_eq, matchesPattern_request_and_length_iff]

/-- Settles O55: pattern and length 38, and the fields of the three layers. -/
theorem requestFormatTestsItsFixedBytes : Obligations.RequestFormatTestsItsFixedBytes := by
  intro S s
  refine ⟨fun hrequest => ?_, fun hno => ?_⟩
  · obtain ⟨_, hmagic, hlen, htype, henv, haddr, hfc⟩ := id hrequest
    rw [exec, execRequest, readRequest_eq, if_pos hrequest, frameOutFieldsOf_eq, envFieldsAt_eq, cmdFieldsAt_eq,
      take_two_of_startsWithMagic hmagic, hlen, getD_of_getElem? htype, henv, getD_of_getElem? haddr, getD_of_getElem? hfc]
    rfl
  · rw [exec, execRequest, readRequest_eq, if_neg hno]
    rfl

/-- Settles O54: what ENCODE_REQ lays out meets the pattern, and each field reads back what stands there. -/
theorem requestReadsBack : Obligations.RequestReadsBack := by
  intro ver dl inv start count fc s hdl hinv
  obtain ⟨R, crc, hbuilt, h38, hmagic, hver, hlen, htype, hfc, hdlField, henv, haddr, hcmdFc, hinvField,
      hstart, hcount, hcrc, hcrcField⟩ :=
    encodeReqLaysOutTheRequest ver dl inv start count fc s hdl hinv
  have hrequest : IsRequest R :=
    ⟨h38, hmagic, leAt_of_holdsAt hlen (by omega), htype, leAt_of_holdsAt henv (by omega), haddr, hcmdFc⟩
  have hfields := (requestFormatTestsItsFixedBytes R s).1 hrequest
  rw [ofNat_leAt_of_holdsAt hver, getD_of_getElem? hfc, hdlField, hinvField, ofNat_leAt_of_holdsAt hstart,
    ofNat_leAt_of_holdsAt hcount, ofNat_leAt_of_holdsAt hcrcField] at hfields
  exact ⟨R, crc, hbuilt, hcrc, hfields⟩

/-- Settles O56: the pattern tests byte 7, and the fields are the registers. -/
theorem responseFormatReadsTheNamedRegisters : Obligations.ResponseFormatReadsTheNamedRegisters := by
  intro S s
  refine ⟨fun hfc => ?_, fun hno => ?_⟩
  · refine ⟨_, by rw [exec, execResponse, readResponse, if_pos (matchesPattern_response.2 hfc)]; rfl,
      memRead8_of_getElem? hfc, ?_⟩
    simp only [List.forall_mem_cons]
    exact ⟨rfl, rfl, rfl, rfl, rfl, rfl, rfl, List.forall_mem_nil _⟩
  · have hread : readResponse S = none := if_neg fun hmatch => hno (matchesPattern_response.1 hmatch)
    rw [exec, execResponse, hread]
    rfl

end Sys2Proof.Machine
